-- ==== Sys2Proof/Word.lean ====
section
/-!
DEFINITION. The value types of the block (00_scope.md R8, R10): 32-bit and 64-bit unsigned words, and the 32×32
matrix over GF(2) held as 32 words. Nothing in the block is signed (R8, R13).
-/

namespace Sys2Proof

/-- `Word32` of 00_scope.md R8. -/
abbrev Word32 := BitVec 32

/-- `Word64` of 00_scope.md R8: the byte length of COMBINE. -/
abbrev Word64 := BitVec 64

/-- `Mat` of 00_scope.md R10: exactly 32 words. Word `n` is the image of the basis vector `1 <<< n` (R11; the
transposed reading loses, 90_conflicts.md C1). -/
abbrev Mat := Vector Word32 32

/-- The matrix whose words are all zero. -/
def zeroMat : Mat := Vector.replicate 32 0#32

end Sys2Proof
end

