-- ==== Sys2Proof/Config.lean ====
section
/-!
DEFINITION. What an implementation of the block fixes (00_scope.md R7), and the values the spec leaves open. An
`opaque` constant has no body: no proof can learn its value.
-/

namespace Sys2Proof

/-- `E_PHASE`'s values (10_state.md R33). -/
inductive Phase where
  | idle
  | mExec
  | sExec
  | cCheck
  | cBoot
  | cSq1
  | cSq2
  | cIter
  | cFinal
  deriving DecidableEq, Repr

/-- The two byte orders a host's bus may have (20_memory.md R61). -/
inductive ByteOrder where
  | littleEndian
  | bigEndian
  deriving DecidableEq, Repr, Inhabited

/-- `POLY` of 00_scope.md R7: the reflected CRC-32 polynomial. -/
def Config.poly : Word32 := 0xEDB88320#32

/-- The size of the register window in bytes (00_scope.md R7, 20_memory.md R50). -/
def Config.windowSize : Nat := 0x200

/-- `BLOCK_BASE`, OPEN (20_memory.md R50): every offset of the model is relative to it, and no definition depends on
it. Log 13. -/
opaque Config.blockBase : Nat

/-- `BUS_BYTE_ORDER`, OPEN (20_memory.md R61): the block sees whole words only, so no definition depends on it.
Log 13. -/
opaque Config.busByteOrder : ByteOrder

/-- `CYCLES_PER_STEP` less one, OPEN (70_reset_and_hazards.md R251). Log 12. -/
opaque Config.extraCyclesPerStep : Phase → Nat

/-- `CYCLES_PER_STEP : Phase → ℕ≥1`, OPEN (70_reset_and_hazards.md R251): the model measures no time, and no definition
depends on it. Log 12. -/
def Config.cyclesPerStep (p : Phase) : Nat := Config.extraCyclesPerStep p + 1

/-- FREE VALUE: what a host writes when it writes variable `x` that no `RD` has given a value (30_encoding.md R87 says
nothing of it; the variable is not block state). Log 7. -/
opaque Config.hostVarUnset : (x : Nat) → Word32

end Sys2Proof
end

