-- ==== Sys2Proof/Syntax.lean ====
section
/-!
DEFINITION. The commands (one constructor per row of spec/opcode_table.json), the names of the registers
(20_memory.md R51) and the host transactions (30_encoding.md R87, R88). Syntax only: no meaning stands here.
-/

namespace Sys2Proof

/-- The three commands of 30_encoding.md R81. A command has no operand field (R84): it reads fixed registers. -/
inductive Instr where
  /-- MULT: `RESULT <- gf2_mult(MAT_IN, VEC)` (41_matrix_ops.md R136). -/
  | mult
  /-- SQUARE: `MAT_OUT <- gf2_square(MAT_IN)` (41_matrix_ops.md R138). -/
  | square
  /-- COMBINE: `RESULT <- combine(CRC_A, CRC_B, {LEN_HI, LEN_LO})` (42_combiner.md R169). -/
  | combine
  deriving DecidableEq, Repr

/-- The registers of the window (20_memory.md R51). -/
inductive RegName where
  | cmd
  | status
  | crcA
  | crcB
  | lenLo
  | lenHi
  | vec
  | result
  | matIn (n : Fin 32)
  | matOut (n : Fin 32)
  deriving DecidableEq, Repr

/-- What a `WR` writes: a literal, or the value of a host-side variable that an earlier `RD` assigned (30_encoding.md
R87; R88's CPMAT writes `t`). Variables are numbered (log 8). -/
inductive HostValue where
  | imm (v : Word32)
  | var (x : Nat)
  deriving DecidableEq, Repr

/-- A host transaction as the host program holds it (30_encoding.md R87), with the access width in bytes, because the
block answers for a width other than 4 too (20_memory.md R53; log 19). `wait x` is R88's WAIT, the only host-side control flow:
`RD STATUS -> x`, again while bit 0 of it is 1. -/
inductive HostOp where
  | wr (off size : Nat) (v : HostValue)
  | rd (off size : Nat) (x : Nat)
  | wait (x : Nat)
  deriving DecidableEq, Repr

end Sys2Proof
end

