-- ==== Sys2Proof/WellFormed.lean ====
section
/-!
DEFINITION. Which command words and which host accesses are well-formed. A command has no operand field (30_encoding.md
R84), so every `Instr` is well-formed; what can be ill-formed is a command word (R80: reserved bits, unassigned opcodes)
and an access (20_memory.md R53, R54: width, alignment, window).
-/

namespace Sys2Proof

/-- Every command is well-formed: commands have no operand fields to be wrong (30_encoding.md R84). -/
def Instr.wf : Instr → Bool
  | .mult => true
  | .square => true
  | .combine => true

/-- `RSVD`, bits 31:4 of a command word, are 0 (30_encoding.md R80). -/
def CommandWord.reservedZero (w : Word32) : Bool := w.extractLsb' 4 28 == 0#28

/-- `OPC`, bits 3:0 of a command word, names a command (30_encoding.md R81). -/
def CommandWord.opcodeAssigned (w : Word32) : Bool :=
  w.extractLsb' 0 4 == 1#4 || w.extractLsb' 0 4 == 2#4 || w.extractLsb' 0 4 == 3#4

/-- The word is no illegal command word (30_encoding.md R83). -/
def CommandWord.wf (w : Word32) : Bool :=
  CommandWord.reservedZero w && CommandWord.opcodeAssigned w

/-- The access is 32 bits wide and 4-byte aligned (20_memory.md R53). -/
def HostAccess.aligned (off size : Nat) : Bool := size == 4 && off % 4 == 0

/-- The offset lies in the window (20_memory.md R54). -/
def HostAccess.inWindow (off : Nat) : Bool := off < Config.windowSize

/-- The block answers the access (20_memory.md R53, R54). -/
def HostAccess.wf (off size : Nat) : Bool :=
  HostAccess.aligned off size && HostAccess.inWindow off

/-- A host transaction whose accesses the block answers. -/
def HostOp.wf : HostOp → Bool
  | .wr off size _ => HostAccess.wf off size
  | .rd off size _ => HostAccess.wf off size
  | .wait _ => true

end Sys2Proof
end

