-- ==== Sys2Proof/Decode.lean ====
section
/-!
DEFINITION. Decoding of the command word, total on every 32-bit word (30_encoding.md R82), and the encoder (R81). A word
that names no command is rejected with the reason R83 gives. The block fetches nothing (20_memory.md R68): a command is
the data of one host write, one whole word (R61), so no byte order enters here.
-/

namespace Sys2Proof

/-- Why a command word is illegal (30_encoding.md R83). -/
inductive IllegalWord where
  /-- A reserved bit, one of bits 31:4, is 1. -/
  | reservedBits
  /-- `OPC` is 0x0 or 0x4 to 0xF. -/
  | unassignedOpcode
  deriving DecidableEq, Repr

/-- The result of decoding: a command, or ILLEGAL with its reason (30_encoding.md R82). -/
inductive Decoded where
  | command (i : Instr)
  | illegal (why : IllegalWord)
  deriving DecidableEq, Repr

/-- `OPC`, bits 3:0 of the command word (30_encoding.md R80). -/
def opcField (w : Word32) : BitVec 4 := w.extractLsb' 0 4

/-- `RSVD`, bits 31:4 of the command word (30_encoding.md R80). -/
def rsvdField (w : Word32) : BitVec 28 := w.extractLsb' 4 28

/-- The command an opcode names, if it names one (30_encoding.md R81). -/
def decodeOpcode (opc : BitVec 4) : Option Instr :=
  if opc = 1#4 then some .mult
  else if opc = 2#4 then some .square
  else if opc = 3#4 then some .combine
  else none

/-- `decode(w)` of 30_encoding.md R82. -/
def decode (w : Word32) : Decoded :=
  if rsvdField w ≠ 0#28 then .illegal .reservedBits
  else
    match decodeOpcode (opcField w) with
    | some i => .command i
    | none => .illegal .unassignedOpcode

/-- The opcode of a command (30_encoding.md R81). -/
def opcode : Instr → BitVec 4
  | .mult => 1#4
  | .square => 2#4
  | .combine => 3#4

/-- The command word of a command: `OPC` in bits 3:0 under 28 zero bits (30_encoding.md R80, R81). -/
def encode (i : Instr) : Word32 := 0#28 ++ opcode i

/-- The command of a decoding, if it is one. -/
def Decoded.toOption : Decoded → Option Instr
  | .command i => some i
  | .illegal _ => none

/-- The command the decoder reads from a word whose low `nbits` bits are `w` and whose other bits are 0. A command is
one 32-bit word and no longer (30_encoding.md R80), so more than 32 bits are none (log 16). -/
def decodeTableWord (nbits w : Nat) : Option Instr :=
  if nbits ≤ 32 then (decode (BitVec.ofNat 32 (w % 2 ^ nbits))).toOption else none

end Sys2Proof
end

