-- ==== Sys2Proof/Machine/State.lean ====
section
/-!
DEFINITION. The state of the block and of its host, as plain data, and the state after reset. The groups are those of
10_state.md: host-visible registers (§1), engine-internal registers (§2), the bookkeeping a model keeps (§3); then the
host agent (40_command_issue.md R99) and the order in which the agents move. `CMD` holds no value (R21) and
`STATUS[31:3]` no storage (R25), so neither is a field. The block has no memory of bytes (R42): log 11.
-/

namespace Sys2Proof.Machine

/-- The model faults of 60_exceptions.md R200, with the information each records. Each stands for a host action whose
hardware effect is unspecified. A fault is APPENDED to `State.faults` and the step answers a NEXT state (R200, R201;
log 2): no step of this model answers `Host.Outcome.fault`. -/
inductive Fault where
  /-- F1. Raised by a host access that is not 32 bits wide or not 4-byte aligned (20_memory.md R53). Safe: nothing
  else changes, and a state with a fault recorded is never final (R201). -/
  | badAccess (off size : Nat)
  /-- F2. Raised by a host access at an offset of 0x200 or above (20_memory.md R54). Safe, as for F1. -/
  | outOfWindow (off : Nat)
  /-- F3. Raised by a write to `CMD` while `BUSY` is 1 (40_command_issue.md R101). Hardware may disturb the command in
  flight: unsafe for a claim about what follows that does not ask for an empty fault record, safe otherwise (log 2). -/
  | cmdWhileBusy (w : Word32)
  /-- F4. Raised by a read of `RESULT` or `MAT_OUT[n]` while `BUSY` is 1 (20_memory.md R55). Safe: no value is
  returned. -/
  | outputReadWhileBusy (off : Nat)
  /-- F5. Raised by a read of an operand register not written since reset or of an output not valid (20_memory.md R56).
  Safe: no value is returned. -/
  | unwrittenRead (off : Nat)
  /-- F6. Raised by a legal command word whose operands are not all written (40_command_issue.md R103). Hardware would
  run the command on unspecified values: unsafe for a claim about what follows that does not ask for an empty fault
  record, safe otherwise (log 2). -/
  | unwrittenOperand (op : Instr) (regs : List RegName)
  deriving DecidableEq, Repr

/-- Why a step would answer no meaning. Every command has its meaning, so nothing raises it. -/
inductive Refusal where
  /-- A command without a meaning yet, by its mnemonic. Raised by nothing in this model. Safe. -/
  | notModelled (mnemonic : String)
  deriving DecidableEq, Repr

/-- `STATUS[2:0]` (10_state.md R22 to R24). `BUSY` is kept beside the phase it follows from (log 18). -/
structure Status where
  busy : Bool
  done : Bool
  illegal : Bool
  deriving DecidableEq, Repr

/-- The operand registers (10_state.md R26 to R29, R31). -/
structure Operands where
  crcA : Word32
  crcB : Word32
  lenLo : Word32
  lenHi : Word32
  vec : Word32
  matIn : Mat
  deriving DecidableEq, Repr

/-- The result registers (10_state.md R30, R32). -/
structure Results where
  result : Word32
  matOut : Mat
  deriving DecidableEq, Repr

/-- `E_SEL`'s values: the accumulator the next `C_ITER` step writes (10_state.md R34). -/
inductive Sel where
  | even
  | odd
  deriving DecidableEq, Repr

/-- The engine-internal registers `E_*` (10_state.md R33 to R37). -/
structure Engine where
  phase : Phase
  sel : Sel
  mat : Mat
  vec : Word32
  crc : Word32
  crcB : Word32
  len : Word64
  even : Mat
  odd : Mat
  deriving DecidableEq, Repr

/-- The written flag of each operand register (10_state.md R39). -/
structure Written where
  crcA : Bool
  crcB : Bool
  lenLo : Bool
  lenHi : Bool
  vec : Bool
  matIn : Vector Bool 32
  deriving DecidableEq, Repr

/-- `RESULT_valid` and `MAT_OUT_valid` (10_state.md R40). -/
structure Valid where
  result : Bool
  matOut : Bool
  deriving DecidableEq, Repr

/-- Who moves next: the host performs a transaction, the engine takes a step (40_command_issue.md R99), or the platform
asserts reset (70_reset_and_hazards.md R230, 93_implementation_defined.md U12). -/
inductive Turn where
  | host
  | engine
  | reset
  deriving DecidableEq, Repr

/-- What a host read answers: a value, or a fault and no value (20_memory.md R59). -/
inductive ReadResult where
  | value (v : Word32)
  | fault (f : Fault)
  deriving DecidableEq, Repr

/-- The whole state. -/
structure State where
  status : Status
  operands : Operands
  results : Results
  engine : Engine
  written : Written
  valid : Valid
  /-- The fault record, oldest first (10_state.md R41). -/
  faults : List Fault
  /-- The host transactions not yet performed, the next one first (30_encoding.md R87). -/
  hostProgram : List HostOp
  /-- The host-side variables with a value (30_encoding.md R87), strictly rising by number. -/
  hostVars : List (Nat × Word32)
  /-- The order in which the agents move, the next one first; the model's own field (log 1). -/
  turns : List Turn
  deriving DecidableEq, Repr

/-- `STATUS` after reset (70_reset_and_hazards.md R230). -/
def Status.reset : Status := { busy := false, done := false, illegal := false }

/-- The operand registers after reset: unspecified by R230; DESIGN CHOICE zero, unsafe (log 3). -/
def Operands.reset : Operands :=
  { crcA := 0#32, crcB := 0#32, lenLo := 0#32, lenHi := 0#32, vec := 0#32, matIn := zeroMat }

/-- The result registers after reset: unspecified by R230; DESIGN CHOICE zero, unsafe (log 3). -/
def Results.reset : Results := { result := 0#32, matOut := zeroMat }

/-- The engine after reset: `E_PHASE` is IDLE, the rest unspecified (R230); DESIGN CHOICE zero and EVEN, unsafe
(log 3). -/
def Engine.reset : Engine :=
  { phase := .idle, sel := .even, mat := zeroMat, vec := 0#32, crc := 0#32, crcB := 0#32, len := 0#64,
    even := zeroMat, odd := zeroMat }

/-- Every written flag is false after reset (70_reset_and_hazards.md R230). -/
def Written.reset : Written :=
  { crcA := false, crcB := false, lenLo := false, lenHi := false, vec := false,
    matIn := Vector.replicate 32 false }

/-- Both valid flags are false after reset (70_reset_and_hazards.md R230). -/
def Valid.reset : Valid := { result := false, matOut := false }

/-- The machine right after reset, at launch (70_reset_and_hazards.md R230, R233): an empty fault record, and no host
program placed (log 5). -/
def State.reset : State :=
  { status := Status.reset, operands := Operands.reset, results := Results.reset, engine := Engine.reset,
    written := Written.reset, valid := Valid.reset, faults := [], hostProgram := [], hostVars := [], turns := [] }

end Sys2Proof.Machine
end

