-- ==== Sys2Proof/Machine/Flags.lean ====
section
/-!
DEFINITION. Every computation of the three `STATUS` bits (10_state.md R22 to R25): the word a read returns, and what
issue, an illegal word and completion make of them.
-/

namespace Sys2Proof.Machine

/-- `zext_32({ILLEGAL, DONE, BUSY})`, what a read of `STATUS` returns (10_state.md R25). -/
def statusWord (st : Status) : Word32 :=
  (BitVec.ofBool st.illegal ++ BitVec.ofBool st.done ++ BitVec.ofBool st.busy).setWidth 32

/-- `DONE <- 0 ; ILLEGAL <- 0 ; BUSY <- 1` (40_command_issue.md R104). -/
def issueStatus (_st : Status) : Status := { busy := true, done := false, illegal := false }

/-- `DONE <- 0 ; ILLEGAL <- 1`, `BUSY` left as it is (40_command_issue.md R102). -/
def illegalStatus (st : Status) : Status := { st with done := false, illegal := true }

/-- `BUSY <- 0 ; DONE <- 1`, `ILLEGAL` left as it is (40_command_issue.md R109). -/
def completeStatus (st : Status) : Status := { st with busy := false, done := true }

end Sys2Proof.Machine
end

