-- ==== Sys2Proof/Machine/Operands.lean ====
section
/-!
DEFINITION. The register map (20_memory.md R51) and every operand form: how the operands of a command are assembled
from the operand registers (30_encoding.md R84 to R86), and which of them are unwritten (40_command_issue.md R103).
-/

namespace Sys2Proof.Machine

/-- `off(reg)`: the byte offset of a register in the window (20_memory.md R51). -/
def regOffset : RegName → Nat
  | .cmd => 0x000
  | .status => 0x004
  | .crcA => 0x008
  | .crcB => 0x00C
  | .lenLo => 0x010
  | .lenHi => 0x014
  | .vec => 0x018
  | .result => 0x01C
  | .matIn n => 0x080 + 4 * n.val
  | .matOut n => 0x100 + 4 * n.val

/-- Word index `(off - base) / 4` of a register of a 32-word block, or none outside the block (20_memory.md R51). -/
def wordIndex (base off : Nat) : Option (Fin 32) :=
  if h : base ≤ off ∧ off < base + 128 then some ⟨(off - base) / 4, by omega⟩ else none

/-- The register at an aligned offset of the window; `none` is a reserved offset (20_memory.md R51, R52). -/
def regAt (off : Nat) : Option RegName :=
  if off = 0x000 then some .cmd
  else if off = 0x004 then some .status
  else if off = 0x008 then some .crcA
  else if off = 0x00C then some .crcB
  else if off = 0x010 then some .lenLo
  else if off = 0x014 then some .lenHi
  else if off = 0x018 then some .vec
  else if off = 0x01C then some .result
  else
    match wordIndex 0x080 off with
    | some n => some (.matIn n)
    | none => (wordIndex 0x100 off).map .matOut

/-- The length operand `{LEN_HI, LEN_LO}` (10_state.md R28, 30_encoding.md R85). -/
def lengthOperand (o : Operands) : Word64 := o.lenHi ++ o.lenLo

/-- The matrix operand: word `n` is `MAT_IN[n]` (30_encoding.md R86). -/
def matrixOperand (o : Operands) : Mat := o.matIn

/-- The registers of a list whose flag beside them is false, in the list's order. -/
def unwrittenOf (regs : List (RegName × Bool)) : List RegName :=
  (regs.filter fun r => !r.2).map Prod.fst

/-- The 32 words of `MAT_IN` with their written flags, in increasing `n`. -/
def matInFlags (w : Written) : List (RegName × Bool) :=
  (List.finRange 32).map fun n => (RegName.matIn n, w.matIn[n])

/-- MULT needs `VEC` and all 32 `MAT_IN[n]` (40_command_issue.md R103); listed in that order (log 10). -/
def unwrittenForMult (w : Written) : List RegName :=
  unwrittenOf ((.vec, w.vec) :: matInFlags w)

/-- SQUARE needs all 32 `MAT_IN[n]` (40_command_issue.md R103). -/
def unwrittenForSquare (w : Written) : List RegName :=
  unwrittenOf (matInFlags w)

/-- COMBINE needs `CRC_A`, `CRC_B`, `LEN_LO` and `LEN_HI`, even for a length of 0 (40_command_issue.md R103). -/
def unwrittenForCombine (w : Written) : List RegName :=
  unwrittenOf [(.crcA, w.crcA), (.crcB, w.crcB), (.lenLo, w.lenLo), (.lenHi, w.lenHi)]

/-- MULT's latch: `E_MAT[n] <- MAT_IN[n]` and `E_VEC <- VEC` (40_command_issue.md R105). -/
def latchMult (o : Operands) (e : Engine) : Engine := { e with mat := matrixOperand o, vec := o.vec }

/-- SQUARE's latch: `E_MAT[n] <- MAT_IN[n]` (40_command_issue.md R105). -/
def latchSquare (o : Operands) (e : Engine) : Engine := { e with mat := matrixOperand o }

/-- COMBINE's latch: `E_CRC <- CRC_A`, `E_CRCB <- CRC_B`, `E_LEN <- {LEN_HI, LEN_LO}` (40_command_issue.md R105). -/
def latchCombine (o : Operands) (e : Engine) : Engine :=
  { e with crc := o.crcA, crcB := o.crcB, len := lengthOperand o }

/-- The operands of a command that are unwritten (40_command_issue.md R103). -/
def unwrittenOperands : Instr → Written → List RegName
  | .mult => unwrittenForMult
  | .square => unwrittenForSquare
  | .combine => unwrittenForCombine

/-- `latch(op)` (40_command_issue.md R105). -/
def latch : Instr → Operands → Engine → Engine
  | .mult => latchMult
  | .square => latchSquare
  | .combine => latchCombine

/-- `start(op)` (40_command_issue.md R104). -/
def startPhase : Instr → Phase
  | .mult => .mExec
  | .square => .sExec
  | .combine => .cCheck

end Sys2Proof.Machine
end

