-- ==== Sys2Proof/Machine/Ops.lean ====
section
/-!
DEFINITION. The named operations on the state that the commands, the engine steps, the host accesses and reset share.
The block has no trap, no saved state and no return from one (60_exceptions.md R204, R207): what stands in the place of
taking an exception is `raise`, the one operation that records a model fault (R200).
-/

namespace Sys2Proof.Machine

/-- `raise <Fault>(info)`: append to the fault record and change no other state (60_exceptions.md R200, 00_scope.md
R9). -/
def raise (f : Fault) (s : State) : State := { s with faults := s.faults ++ [f] }

/-- The status after an illegal command word; nothing else changes (40_command_issue.md R102). -/
def markIllegal (s : State) : State := { s with status := illegalStatus s.status }

/-- Issue: the status bits, the latched operands, then the start phase (40_command_issue.md R104, R105). -/
def issue (op : Instr) (s : State) : State :=
  { s with
    status := issueStatus s.status
    engine := { latch op s.operands s.engine with phase := startPhase op } }

/-- What a legal command word does, in the order of 40_command_issue.md R100: the busy check (R101), the check that the
operands are written (R103), issue (R104, R105). The busy check stands here too so that a command has its whole meaning on
every state (log 15). -/
def issueCommand (op : Instr) (s : State) : State :=
  if s.status.busy then raise (.cmdWhileBusy (encode op)) s
  else if unwrittenOperands op s.written ≠ [] then
    raise (.unwrittenOperand op (unwrittenOperands op s.written)) s
  else issue op s

/-- Replace the engine-internal registers. -/
def setEngine (e : Engine) (s : State) : State := { s with engine := e }

/-- `E_PHASE <- p` (10_state.md R33). -/
def setPhase (p : Phase) (s : State) : State := { s with engine := { s.engine with phase := p } }

/-- `complete()`: `BUSY <- 0 ; DONE <- 1 ; E_PHASE <- IDLE` (40_command_issue.md R109). -/
def complete (s : State) : State :=
  { s with status := completeStatus s.status, engine := { s.engine with phase := .idle } }

/-- A completion step that writes `RESULT` and sets `RESULT_valid` (40_command_issue.md R109, 10_state.md R40). -/
def completeResult (v : Word32) (s : State) : State :=
  complete { s with results := { s.results with result := v }, valid := { s.valid with result := true } }

/-- A completion step that writes all 32 words of `MAT_OUT` and sets `MAT_OUT_valid` (40_command_issue.md R109,
10_state.md R40). -/
def completeMatOut (m : Mat) (s : State) : State :=
  complete { s with results := { s.results with matOut := m }, valid := { s.valid with matOut := true } }

/-- A host write to a register: an operand register stores the value and sets its written flag (20_memory.md R57);
`STATUS`, `RESULT`, `MAT_OUT[n]` ignore it (R58). A write to `CMD` is a command and does not come here. -/
def writeRegister (r : RegName) (v : Word32) (s : State) : State :=
  match r with
  | .crcA => { s with operands := { s.operands with crcA := v }, written := { s.written with crcA := true } }
  | .crcB => { s with operands := { s.operands with crcB := v }, written := { s.written with crcB := true } }
  | .lenLo => { s with operands := { s.operands with lenLo := v }, written := { s.written with lenLo := true } }
  | .lenHi => { s with operands := { s.operands with lenHi := v }, written := { s.written with lenHi := true } }
  | .vec => { s with operands := { s.operands with vec := v }, written := { s.written with vec := true } }
  | .matIn n =>
    { s with
      operands := { s.operands with matIn := s.operands.matIn.set n v }
      written := { s.written with matIn := s.written.matIn.set n true } }
  | .cmd | .status | .result | .matOut _ => s

/-- A read of an operand register: its value if its written flag is set, else a fault (20_memory.md R56, R59). -/
def readOperand (written : Bool) (v : Word32) (off : Nat) : ReadResult :=
  if written then .value v else .fault (.unwrittenRead off)

/-- A read of a result register: not while busy (20_memory.md R55), and only once valid (R56). -/
def readOutput (busy valid : Bool) (v : Word32) (off : Nat) : ReadResult :=
  if busy then .fault (.outputReadWhileBusy off)
  else if valid then .value v
  else .fault (.unwrittenRead off)

/-- A read of the register `r`, whose offset is `off` (20_memory.md R59). -/
def readRegister (r : RegName) (off : Nat) (s : State) : ReadResult :=
  match r with
  | .cmd => .value 0#32
  | .status => .value (statusWord s.status)
  | .crcA => readOperand s.written.crcA s.operands.crcA off
  | .crcB => readOperand s.written.crcB s.operands.crcB off
  | .lenLo => readOperand s.written.lenLo s.operands.lenLo off
  | .lenHi => readOperand s.written.lenHi s.operands.lenHi off
  | .vec => readOperand s.written.vec s.operands.vec off
  | .matIn n => readOperand s.written.matIn[n] s.operands.matIn[n] off
  | .result => readOutput s.status.busy s.valid.result s.results.result off
  | .matOut n => readOutput s.status.busy s.valid.matOut s.results.matOut[n] off

/-- The reset event (70_reset_and_hazards.md R230): status and phase as R230 says, every flag false, a command in
flight abandoned with no output written and no fault recorded (R231). The fault record stays (R232), and so do the host's
program, its variables and the turns, which are not the block's. The data registers, unspecified, take the same values as
at launch (log 4). -/
def resetBlock (s : State) : State :=
  { s with
    status := Status.reset, operands := Operands.reset, results := Results.reset, engine := Engine.reset,
    written := Written.reset, valid := Valid.reset }

/-- The value of host variable `x`: what the last `RD` into it returned, else the free value of Config (log 7). -/
def hostVar (vars : List (Nat × Word32)) (x : Nat) : Word32 :=
  match vars with
  | [] => Config.hostVarUnset x
  | (y, v) :: rest => if y = x then v else hostVar rest x

/-- `<name> <- v` on the host's variables, kept strictly rising by number (30_encoding.md R87). -/
def setHostVar (vars : List (Nat × Word32)) (x : Nat) (v : Word32) : List (Nat × Word32) :=
  match vars with
  | [] => [(x, v)]
  | (y, u) :: rest =>
    if x < y then (x, v) :: (y, u) :: rest
    else if x = y then (x, v) :: rest
    else (y, u) :: setHostVar rest x v

/-- The value a `WR` writes (30_encoding.md R87). -/
def hostValue (vars : List (Nat × Word32)) (v : HostValue) : Word32 :=
  match v with
  | .imm w => w
  | .var x => hostVar vars x

end Sys2Proof.Machine
end

