-- ==== Sys2Proof/Machine/MatrixOps.lean ====
section
/-!
DEFINITION. MatrixOps (41_matrix_ops.md): the matrix–vector product and the matrix square over GF(2) as pure functions,
the commands MULT and SQUARE, and their engine steps.
-/

namespace Sys2Proof.Machine

/-- Word `i` of a matrix. R130's loop reads only words 0 to 31, so the value past the end is never used (DEDUCED from
41_matrix_ops.md R130: `i` never exceeds 31 when `m[i]` is read; log 21). -/
def matWord (m : Mat) (i : Nat) : Word32 := if h : i < 32 then m[i] else 0#32

/-- The loop of 41_matrix_ops.md R130, with its bound of iterations as the first argument. -/
def gf2MultLoop (m : Mat) : (bound : Nat) → (v : Word32) → (i : Nat) → (result : Word32) → Word32
  | 0, _, _, result => result
  | bound + 1, v, i, result =>
    if v = 0#32 then result
    else gf2MultLoop m bound (v >>> 1) (i + 1) (if v.getLsbD 0 then result ^^^ matWord m i else result)

/-- `gf2_mult(m, v)`, at most 32 iterations (41_matrix_ops.md R130). -/
def gf2Mult (m : Mat) (v : Word32) : Word32 := gf2MultLoop m 32 v 0 0#32

/-- `gf2_square(m)`: word `n` is `gf2_mult(m, m[n])`, a fresh matrix (41_matrix_ops.md R133, R135). -/
def gf2Square (m : Mat) : Mat := Vector.ofFn fun n => gf2Mult m m[n]

/-- MULT's command write (41_matrix_ops.md R136; `start(MULT) = M_EXEC`, 40_command_issue.md R104). -/
def execMult (s : State) : Host.Outcome State Fault Refusal :=
  .next (issueCommand .mult s)

/-- SQUARE's command write (41_matrix_ops.md R138; `start(SQUARE) = S_EXEC`, 40_command_issue.md R104). -/
def execSquare (s : State) : Host.Outcome State Fault Refusal :=
  .next (issueCommand .square s)

/-- Engine step `M_EXEC`: `RESULT <- gf2_mult(E_MAT, E_VEC) ; complete()` (41_matrix_ops.md R137). -/
def engineMExec (s : State) : State := completeResult (gf2Mult s.engine.mat s.engine.vec) s

/-- Engine step `S_EXEC`: `MAT_OUT <- gf2_square(E_MAT) ; complete()` (41_matrix_ops.md R139). -/
def engineSExec (s : State) : State := completeMatOut (gf2Square s.engine.mat) s

end Sys2Proof.Machine
end

