-- ==== Sys2Proof/Machine/Combiner.lean ====
section
/-!
DEFINITION. Combiner (42_combiner.md): the bootstrap matrix, the combine function, the command COMBINE, and its engine
steps. Each loop step overwrites one accumulator with the square of the OTHER (90_conflicts.md C2), and the running
checksum is replaced, not XORed (C4).
-/

namespace Sys2Proof.Machine

/-- `BOOT`, the one-zero-bit operator (42_combiner.md R160). -/
def boot : Mat := Vector.ofFn fun n => if n.val = 0 then Config.poly else 1#32 <<< (n.val - 1)

/-- `sel <- (sel = EVEN ? ODD : EVEN)` (42_combiner.md R162). -/
def otherSel : Sel → Sel
  | .even => .odd
  | .odd => .even

/-- The loop of 42_combiner.md R162 (step 3), with its bound of iterations as the first argument. -/
def combineLoop : (bound : Nat) → (even odd : Mat) → (crc : Word32) → (len : Word64) → (sel : Sel) → Word32
  | 0, _, _, crc, _, _ => crc
  | bound + 1, even, odd, crc, len, sel =>
    let even' := if sel = .even then gf2Square odd else even
    let odd' := if sel = .even then odd else gf2Square even
    let acc := if sel = .even then even' else odd'
    let crc' := if len.getLsbD 0 then gf2Mult acc crc else crc
    if len >>> 1 = 0#64 then crc' else combineLoop bound even' odd' crc' (len >>> 1) (otherSel sel)

/-- `combine(crc_a, crc_b, len_b)`, at most 64 loop iterations (42_combiner.md R162, R163, R167). -/
def combine (crcA crcB : Word32) (lenB : Word64) : Word32 :=
  if lenB = 0#64 then crcA
  else
    let even := gf2Square boot
    let odd := gf2Square even
    combineLoop 64 even odd crcA lenB .even ^^^ crcB

/-- COMBINE's command write (42_combiner.md R169; `start(COMBINE) = C_CHECK`, 40_command_issue.md R104). -/
def execCombine (s : State) : Host.Outcome State Fault Refusal :=
  .next (issueCommand .combine s)

/-- Engine step `C_CHECK` (42_combiner.md R170). -/
def engineCCheck (s : State) : State :=
  if s.engine.len = 0#64 then completeResult s.engine.crc s else setPhase .cBoot s

/-- Engine step `C_BOOT` (42_combiner.md R171). -/
def engineCBoot (s : State) : State := setEngine { s.engine with odd := boot, phase := .cSq1 } s

/-- Engine step `C_SQ1` (42_combiner.md R172). -/
def engineCSq1 (s : State) : State :=
  setEngine { s.engine with even := gf2Square s.engine.odd, phase := .cSq2 } s

/-- Engine step `C_SQ2` (42_combiner.md R173). -/
def engineCSq2 (s : State) : State :=
  setEngine { s.engine with odd := gf2Square s.engine.even, sel := .even, phase := .cIter } s

/-- The accumulator a `C_ITER` step reads: the one `E_SEL` does not name (42_combiner.md R174). -/
def otherAccumulator (e : Engine) : Mat :=
  match e.sel with
  | .even => e.odd
  | .odd => e.even

/-- Overwrite the accumulator `E_SEL` names (42_combiner.md R174). -/
def writeAccumulator (acc : Mat) (e : Engine) : Engine :=
  match e.sel with
  | .even => { e with even := acc }
  | .odd => { e with odd := acc }

/-- The engine registers after one `C_ITER` step (42_combiner.md R174): square, apply the new accumulator if bit 0 of
the length is set, shift the length, then leave the loop or change `E_SEL`. -/
def iterate (e : Engine) : Engine :=
  let acc := gf2Square (otherAccumulator e)
  let crc := if e.len.getLsbD 0 then gf2Mult acc e.crc else e.crc
  let len := e.len >>> 1
  let written := { writeAccumulator acc e with crc := crc, len := len }
  if len = 0#64 then { written with phase := .cFinal } else { written with sel := otherSel e.sel }

/-- Engine step `C_ITER` (42_combiner.md R174). -/
def engineCIter (s : State) : State := setEngine (iterate s.engine) s

/-- Engine step `C_FINAL`: `RESULT <- E_CRC ^ E_CRCB ; complete()` (42_combiner.md R175). -/
def engineCFinal (s : State) : State := completeResult (s.engine.crc ^^^ s.engine.crcB) s

end Sys2Proof.Machine
end

