-- ==== Sys2Proof/Machine/Engine.lean ====
section
/-!
DEFINITION. The engine agent: the one step that is enabled in each phase (40_command_issue.md R106).
-/

namespace Sys2Proof.Machine

/-- The engine has an enabled step exactly when `E_PHASE != IDLE` (40_command_issue.md R106). -/
def engineEnabled (s : State) : Bool := s.engine.phase != .idle

/-- The engine's step for the current `E_PHASE`; in IDLE it has none and nothing changes (40_command_issue.md R106,
60_exceptions.md R213). -/
def engineStep (s : State) : State :=
  match s.engine.phase with
  | .idle => s
  | .mExec => engineMExec s
  | .sExec => engineSExec s
  | .cCheck => engineCCheck s
  | .cBoot => engineCBoot s
  | .cSq1 => engineCSq1 s
  | .cSq2 => engineCSq2 s
  | .cIter => engineCIter s
  | .cFinal => engineCFinal s

end Sys2Proof.Machine
end

