-- ==== Sys2Proof/Machine/Dispatch.lean ====
section
/-!
DEFINITION. The meaning of each command: what its command word does when the host writes it to CMD. The steps the engine
then takes are in Machine/Engine.lean.
-/

namespace Sys2Proof.Machine

def exec (i : Instr) (s : State) : Host.Outcome State Fault Refusal :=
  match i with
  | .mult => Sys2Proof.Machine.execMult s
  | .square => Sys2Proof.Machine.execSquare s
  | .combine => Sys2Proof.Machine.execCombine s

end Sys2Proof.Machine
end

