-- ==== Sys2Proof/Machine/Bus.lean ====
section
/-!
DEFINITION. Host accesses to the register window (20_memory.md): the checks that come before everything else, the read
function, the write function, and the command write.
-/

namespace Sys2Proof.Machine

/-- The fault an access raises before anything else: width and alignment first, then the window (20_memory.md R53, R54;
60_exceptions.md R206). -/
def accessFault (off size : Nat) : Option Fault :=
  if size ≠ 4 ∨ off % 4 ≠ 0 then some (.badAccess off size)
  else if Config.windowSize ≤ off then some (.outOfWindow off)
  else none

/-- `MemRead(off, size)` (20_memory.md R59). A reserved offset reads as 0 (R52). -/
def memRead (off size : Nat) (s : State) : ReadResult :=
  match accessFault off size with
  | some f => .fault f
  | none =>
    match regAt off with
    | some r => readRegister r off s
    | none => .value 0#32

/-- `command_write(w)`: a write to `CMD` (40_command_issue.md R100). -/
def commandWrite (w : Word32) (s : State) : Host.Outcome State Fault Refusal :=
  if s.status.busy then .next (raise (.cmdWhileBusy w) s)
  else
    match decode w with
    | .illegal _ => .next (markIllegal s)
    | .command i => exec i s

/-- `MemWrite(off, size, v)` (20_memory.md R60). A reserved offset ignores the write (R52). -/
def memWrite (off size : Nat) (v : Word32) (s : State) : Host.Outcome State Fault Refusal :=
  match accessFault off size with
  | some f => .next (raise f s)
  | none =>
    match regAt off with
    | some .cmd => commandWrite v s
    | some r => .next (writeRegister r v s)
    | none => .next s

end Sys2Proof.Machine
end

