-- ==== Sys2Proof/Machine/HostAgent.lean ====
section
/-!
DEFINITION. The one host agent (log 20): one transaction of its program a turn (40_command_issue.md R99), and the
pseudo-transactions of 30_encoding.md R88.
-/

namespace Sys2Proof.Machine

/-- `RD off -> x`: the variable takes the value read; a read that faults returns no value, so the variable keeps what
it held and the fault is recorded (00_scope.md R9, 20_memory.md R59; log 6). -/
def hostRead (off size x : Nat) (s : State) : State :=
  match memRead off size s with
  | .value v => { s with hostVars := setHostVar s.hostVars x v }
  | .fault f => raise f s

/-- Bit 0 of a value read is 1: the condition under which WAIT goes to its label again (30_encoding.md R88). -/
def busyBit : ReadResult → Bool
  | .value v => v.getLsbD 0
  | .fault _ => false

/-- One pass of `WAIT`, `L: RD STATUS -> x ; if x[0] = 1 go to L`, with `rest` the program after it: the host stays at
the WAIT while it reads busy (30_encoding.md R88; log 9). -/
def hostWait (x : Nat) (rest : List HostOp) (s : State) : State :=
  let again := busyBit (memRead (regOffset .status) 4 s)
  hostRead (regOffset .status) 4 x { s with hostProgram := if again then .wait x :: rest else rest }

/-- The host's turn: its next transaction, which leaves the program whether or not it faults (log 6). When the program
is over nothing changes (log 17). -/
def hostTurn (s : State) : Host.Outcome State Fault Refusal :=
  match s.hostProgram with
  | [] => .next s
  | .wr off size v :: rest => memWrite off size (hostValue s.hostVars v) { s with hostProgram := rest }
  | .rd off size x :: rest => .next (hostRead off size x { s with hostProgram := rest })
  | .wait x :: rest => .next (hostWait x rest s)

/-- `WR <reg>, <imm32>` (30_encoding.md R87). -/
def wrReg (r : RegName) (v : Word32) : HostOp := .wr (regOffset r) 4 (.imm v)

/-- `RD <reg> -> <name>` (30_encoding.md R87). -/
def rdReg (r : RegName) (x : Nat) : HostOp := .rd (regOffset r) 4 x

/-- The pseudo-transactions MULT, SQUARE and COMBINE: a write of the command's word to `CMD` (30_encoding.md R88). -/
def txCommand (i : Instr) : List HostOp := [wrReg .cmd (encode i)]

/-- `WRLEN <imm64>`: the low half, then the high half (30_encoding.md R88). -/
def txWrLen (len : Word64) : List HostOp :=
  [wrReg .lenLo (len.extractLsb' 0 32), wrReg .lenHi (len.extractLsb' 32 32)]

/-- `WRMAT {w0, ..., w31}`, in increasing `n` (30_encoding.md R88). -/
def txWrMat (m : Mat) : List HostOp := (List.finRange 32).map fun n => wrReg (.matIn n) m[n]

/-- `CPMAT`: for each `n`, `RD MAT_OUT[n] -> t` then `WR MAT_IN[n], t`, with variable `t` (30_encoding.md R88). -/
def txCpMat (t : Nat) : List HostOp :=
  (List.finRange 32).flatMap fun n => [rdReg (.matOut n) t, .wr (regOffset (.matIn n)) 4 (.var t)]

/-- `RDMAT -> m`: for each `n`, `RD MAT_OUT[n] -> m[n]`, with `m[n]` the variable `base + n` (30_encoding.md R88). -/
def txRdMat (base : Nat) : List HostOp := (List.finRange 32).map fun n => rdReg (.matOut n) (base + n.val)

end Sys2Proof.Machine
end

