-- ==== Sys2Proof/Machine/Agents.lean ====
section
/-!
DEFINITION. Which agent moves, and its move (40_command_issue.md R99): the interleaving is plain data, `State.turns`.
-/

namespace Sys2Proof.Machine

/-- Who moves next: the first of `turns`. When none is listed, the engine if it has an enabled step, else the host, so
that every run is fair to the engine (40_command_issue.md R107; log 1). -/
def nextTurn (s : State) : Turn :=
  match s.turns with
  | t :: _ => t
  | [] => if engineEnabled s then .engine else .host

/-- The state with the turn taken off the list. -/
def dropTurn (s : State) : State := { s with turns := s.turns.tail }

/-- The move of an agent, or the reset event (40_command_issue.md R99, 70_reset_and_hazards.md R230). -/
def takeTurn (t : Turn) (s : State) : Host.Outcome State Fault Refusal :=
  match t with
  | .host => hostTurn s
  | .engine => .next (engineStep s)
  | .reset => .next (resetBlock s)

/-- The state in which the host's very next transaction, moved next, writes `w` to `CMD` (log 5). -/
def placeCommand (w : Word32) (s : State) : State :=
  { s with hostProgram := wrReg .cmd w :: s.hostProgram, turns := .host :: s.turns }

end Sys2Proof.Machine
end

