-- ==== Sys2Proof/Machine/Step.lean ====
section
/-!
DEFINITION. One step of the machine: one host transaction, one engine step or one reset event (40_command_issue.md R99,
20_memory.md R62). A program reaches the machine from outside, as the host's program.
-/

namespace Sys2Proof.Machine

/-- One step: the agent whose turn it is moves. -/
def step (s : State) : Host.Outcome State Fault Refusal := takeTurn (nextTurn s) (dropTurn s)

/-- `s` with the command word whose low `nbits` bits are `w`, the rest 0, as the host's next transaction, and the host
to move next: the step that follows writes it to `CMD` (log 5). -/
def State.withFetchWord (s : State) (nbits w : Nat) : State :=
  placeCommand (BitVec.ofNat 32 (w % 2 ^ nbits)) s

end Sys2Proof.Machine
end

