-- ==== Sys2Proof/Safety.lean ====
section
/-!
DEFINITION. The terms claims about the machine use: the states the spec names (launch, after reset, final), the
invariants of the machine, the spec's own proof notation for powers of a matrix (00_scope.md R12), several steps in a row,
and which states no host can tell apart.
-/

namespace Sys2Proof.Safety

open Sys2Proof.Machine

/-! ## Proof notation of the spec -/

/-- `ID[n] = 1 << n` (00_scope.md R12). -/
def idMat : Mat := Vector.ofFn fun n => 1#32 <<< n.val

/-- `pow(m, j)`: `lin(m)` composed `j` times (00_scope.md R12). -/
def matPow (m : Mat) : (j : Nat) → Mat
  | 0 => idMat
  | j + 1 => Vector.ofFn fun n => gf2Mult m (matPow m j)[n]

/-- `sq^j(m)`: `gf2_square` applied `j` times (00_scope.md R12). -/
def squareTimes (m : Mat) : (j : Nat) → Mat
  | 0 => m
  | j + 1 => gf2Square (squareTimes m j)

/-- `fold over i = 0..31 : result <- result ^ (v[i] ? m[i] : 0)` (41_matrix_ops.md R131, second form). -/
def gf2MultFold (m : Mat) (v : Word32) : Word32 :=
  (List.finRange 32).foldl (fun result (i : Fin 32) => result ^^^ if v.getLsbD i.val then m[i] else 0#32) 0#32

/-- `XOR over i in 0..31 with v[i] = 1 of m[i]`, the empty XOR being 0 (41_matrix_ops.md R131, first form). -/
def gf2MultXor (m : Mat) (v : Word32) : Word32 :=
  (((List.finRange 32).filter fun (i : Fin 32) => v.getLsbD i.val).map fun i => m[i]).foldr (· ^^^ ·) 0#32

/-- `bitlen(len_b)`: the index of the highest set bit plus 1, and 0 for 0 (42_combiner.md R165). -/
def bitLength (len : Word64) : Nat := if len = 0#64 then 0 else Nat.log2 len.toNat + 1

/-! ## Several steps -/

/-- `k` steps, stopping at the first that is no next state. -/
def runSteps : (k : Nat) → State → Host.Outcome State Fault Refusal
  | 0, s => .next s
  | k + 1, s =>
    match step s with
    | .next t => runSteps k t
    | .fault r => .fault r
    | .refused r => .refused r

/-- `k` engine steps with nothing between them. -/
def engineSteps : (k : Nat) → State → State
  | 0, s => s
  | k + 1, s => engineSteps k (engineStep s)

/-- How many engine steps a command takes from its issue to its completion (70_reset_and_hazards.md R250). -/
def commandSteps (i : Instr) (o : Operands) : Nat :=
  match i with
  | .mult => 1
  | .square => 1
  | .combine => if lengthOperand o = 0#64 then 1 else bitLength (lengthOperand o) + 5

/-! ## The states the spec names -/

/-- Every operand register a command needs has been written (40_command_issue.md R103). -/
abbrev OperandsWritten (i : Instr) (w : Written) : Prop :=
  match i with
  | .mult => w.vec = true ∧ ∀ n : Fin 32, w.matIn[n] = true
  | .square => ∀ n : Fin 32, w.matIn[n] = true
  | .combine => w.crcA = true ∧ w.crcB = true ∧ w.lenLo = true ∧ w.lenHi = true

/-- The operand registers (10_state.md R20). -/
def isOperand : RegName → Bool
  | .crcA | .crcB | .lenLo | .lenHi | .vec | .matIn _ => true
  | .cmd | .status | .result | .matOut _ => false

/-- The written flag of a register; a register that is no operand register has none (10_state.md R39). -/
def isWritten (w : Written) : RegName → Bool
  | .crcA => w.crcA
  | .crcB => w.crcB
  | .lenLo => w.lenLo
  | .lenHi => w.lenHi
  | .vec => w.vec
  | .matIn n => w.matIn[n]
  | .cmd | .status | .result | .matOut _ => false

/-- The operand registers a command needs (40_command_issue.md R103). -/
def needs : Instr → RegName → Bool
  | .mult, .vec => true
  | .mult, .matIn _ => true
  | .square, .matIn _ => true
  | .combine, .crcA => true
  | .combine, .crcB => true
  | .combine, .lenLo => true
  | .combine, .lenHi => true
  | _, _ => false

/-- The engine's next step is a completion step that writes `RESULT` (41_matrix_ops.md R137, 42_combiner.md R170,
R175). -/
abbrev CompletesWithResult (e : Engine) : Prop :=
  e.phase = .mExec ∨ (e.phase = .cCheck ∧ e.len = 0#64) ∨ e.phase = .cFinal

/-- What reset leaves (70_reset_and_hazards.md R230): the status bits, the phase and the flags. It says nothing of the
data registers, which R230 leaves unspecified. -/
structure AfterReset (s : State) : Prop where
  status : s.status = { busy := false, done := false, illegal := false }
  phase : s.engine.phase = .idle
  writtenCrcA : s.written.crcA = false
  writtenCrcB : s.written.crcB = false
  writtenLenLo : s.written.lenLo = false
  writtenLenHi : s.written.lenHi = false
  writtenVec : s.written.vec = false
  writtenMatIn : ∀ n : Fin 32, s.written.matIn[n] = false
  resultValid : s.valid.result = false
  matOutValid : s.valid.matOut = false

/-- The launch state of a host program, "clean launch" (70_reset_and_hazards.md R233). The host is at its first
transaction when the program it is about to run is the whole of `hostProgram`. -/
structure CleanLaunch (s : State) : Prop where
  afterReset : AfterReset s
  noFaults : s.faults = []

/-- A final state: the host has performed its last transaction, the engine is idle, no fault is recorded
(40_command_issue.md R112). -/
abbrev Final (s : State) : Prop := s.hostProgram = [] ∧ s.engine.phase = .idle ∧ s.faults = []

/-! ## Invariants -/

/-- `BUSY` equals `(E_PHASE != IDLE)` (10_state.md R22), and at most one status bit is set (40_command_issue.md R102,
R104, R109). -/
abbrev StatusInv (s : State) : Prop :=
  (s.status.busy = true ↔ s.engine.phase ≠ .idle) ∧
  ¬(s.status.busy = true ∧ s.status.done = true) ∧
  ¬(s.status.busy = true ∧ s.status.illegal = true) ∧
  ¬(s.status.done = true ∧ s.status.illegal = true)

/-- `E_SEL` before loop iteration `k` (42_combiner.md R176). -/
def selAt (k : Nat) : Sel := if k % 2 = 0 then .even else .odd

/-- What the accumulators of COMBINE hold in each phase (42_combiner.md R171 to R173, R176): before loop iteration `k`
the accumulator about to be read is `pow(BOOT, 2^(k+2))`, and at most `64 - k` bits of the length are left. -/
def AccumulatorInv (s : State) : Prop :=
  match s.engine.phase with
  | .idle | .mExec | .sExec | .cCheck | .cFinal => True
  | .cBoot => s.engine.len ≠ 0#64
  | .cSq1 => s.engine.len ≠ 0#64 ∧ s.engine.odd = boot
  | .cSq2 => s.engine.len ≠ 0#64 ∧ s.engine.even = matPow boot 2
  | .cIter =>
    s.engine.len ≠ 0#64 ∧
    ∃ k, k < 64 ∧ s.engine.len.toNat < 2 ^ (64 - k) ∧ s.engine.sel = selAt k ∧
      otherAccumulator s.engine = matPow boot (2 ^ (k + 2))

/-- The host's variables are listed strictly rising by number, each once. -/
abbrev HostVarsSorted (s : State) : Prop := s.hostVars.Pairwise fun p q => p.1 < q.1

/-! ## What a host can tell apart -/

/-- Two engines agree on their phase and on every register a step can still read (10_state.md R34 to R38,
93_implementation_defined.md U8). -/
def EngineEquiv (e f : Engine) : Prop :=
  e.phase = f.phase ∧
  match e.phase with
  | .idle => True
  | .mExec => e.mat = f.mat ∧ e.vec = f.vec
  | .sExec => e.mat = f.mat
  | .cCheck | .cBoot => e.crc = f.crc ∧ e.crcB = f.crcB ∧ e.len = f.len
  | .cSq1 => e.crc = f.crc ∧ e.crcB = f.crcB ∧ e.len = f.len ∧ e.odd = f.odd
  | .cSq2 => e.crc = f.crc ∧ e.crcB = f.crcB ∧ e.len = f.len ∧ e.even = f.even
  | .cIter =>
    e.crc = f.crc ∧ e.crcB = f.crcB ∧ e.len = f.len ∧ e.sel = f.sel ∧
      otherAccumulator e = otherAccumulator f
  | .cFinal => e.crc = f.crc ∧ e.crcB = f.crcB

/-- Two states no host can tell apart: everything is the same but operand registers not written since reset, outputs not
valid, and engine registers that no step reads before it writes them (10_state.md R38 to R40). -/
structure HostEquiv (s t : State) : Prop where
  status : s.status = t.status
  written : s.written = t.written
  valid : s.valid = t.valid
  faults : s.faults = t.faults
  hostProgram : s.hostProgram = t.hostProgram
  hostVars : s.hostVars = t.hostVars
  turns : s.turns = t.turns
  crcA : s.written.crcA = true → s.operands.crcA = t.operands.crcA
  crcB : s.written.crcB = true → s.operands.crcB = t.operands.crcB
  lenLo : s.written.lenLo = true → s.operands.lenLo = t.operands.lenLo
  lenHi : s.written.lenHi = true → s.operands.lenHi = t.operands.lenHi
  vec : s.written.vec = true → s.operands.vec = t.operands.vec
  matIn : ∀ n : Fin 32, s.written.matIn[n] = true → s.operands.matIn[n] = t.operands.matIn[n]
  result : s.valid.result = true → s.results.result = t.results.result
  matOut : s.valid.matOut = true → s.results.matOut = t.results.matOut
  engine : EngineEquiv s.engine t.engine

end Sys2Proof.Safety
end

