-- ==== Sys2Proof/Certificates/Slice0/Obligations.lean ====
section
/-!
DEFINITION. The statements for the provers, each from the numbered rules its docstring names. They are about the block for
every state and every operand, and about no program.
-/

open Sys2Proof Sys2Proof.Machine Sys2Proof.Safety

/-! ## Encoding and the register map -/

/-- A few words decode as 30_encoding.md R81 and 95_test_vectors.md V-I4 say. -/
def Obligations.SampleWordsDecode : Prop :=
  decode 0x00000001#32 = .command .mult ∧ decode 0x00000002#32 = .command .square ∧
  decode 0x00000003#32 = .command .combine ∧
  decode 0x00000000#32 = .illegal .unassignedOpcode ∧ decode 0x00000004#32 = .illegal .unassignedOpcode ∧
  decode 0x0000000F#32 = .illegal .unassignedOpcode ∧
  decode 0x00000011#32 = .illegal .reservedBits ∧ decode 0x80000001#32 = .illegal .reservedBits ∧
  decode 0xFFFFFFFF#32 = .illegal .reservedBits

/-- 30_encoding.md R81: each legal command has exactly one command word, over all 2^32 words. -/
def Obligations.EachCommandHasExactlyOneWord : Prop :=
  encode .mult = 0x00000001#32 ∧ encode .square = 0x00000002#32 ∧ encode .combine = 0x00000003#32 ∧
  ∀ (i : Instr) (w : Word32), decode w = .command i ↔ w = encode i

/-- 30_encoding.md R82: the decoding of every word, by its two fields. -/
def Obligations.DecodeFollowsTheFields : Prop :=
  ∀ w : Word32,
    (w.extractLsb' 4 28 ≠ 0#28 → ∃ why, decode w = .illegal why) ∧
    (w.extractLsb' 4 28 = 0#28 →
      (w.extractLsb' 0 4 = 1#4 → decode w = .command .mult) ∧
      (w.extractLsb' 0 4 = 2#4 → decode w = .command .square) ∧
      (w.extractLsb' 0 4 = 3#4 → decode w = .command .combine) ∧
      (w.extractLsb' 0 4 ≠ 1#4 → w.extractLsb' 0 4 ≠ 2#4 → w.extractLsb' 0 4 ≠ 3#4 →
        ∃ why, decode w = .illegal why))

/-- The offsets of 20_memory.md R51: register names and aligned offsets answer to each other, and the rest of the window is
reserved. -/
def Obligations.RegisterMapRoundTrip : Prop :=
  (∀ r, regAt (regOffset r) = some r) ∧
  (∀ off r, off % 4 = 0 → regAt off = some r → regOffset r = off) ∧
  ∀ off, off % 4 = 0 →
    ((off < 0x200 ∧ regAt off = none) ↔ (0x020 ≤ off ∧ off ≤ 0x07C) ∨ (0x180 ≤ off ∧ off ≤ 0x1FC))

/-- The well-formedness checks are the checks the block makes: an access is well-formed exactly when it raises no access
fault (20_memory.md R53, R54), a command word exactly when it decodes to a command (30_encoding.md R83). -/
def Obligations.WellFormedMeansAnswered : Prop :=
  (∀ off size, HostAccess.wf off size = true ↔ accessFault off size = none) ∧
  ∀ w, CommandWord.wf w = true ↔ ∃ i, decode w = .command i

/-- 30_encoding.md R85: the length operand is `(zext_64(LEN_HI) << 32) ^ zext_64(LEN_LO)`, and every 64-bit value is one. -/
def Obligations.LengthOperandAssembly : Prop :=
  (∀ o : Operands,
    lengthOperand o = (o.lenHi.setWidth 64 <<< 32) ^^^ o.lenLo.setWidth 64 ∧
    (lengthOperand o).toNat = o.lenHi.toNat * 2 ^ 32 + o.lenLo.toNat) ∧
  ∀ (o : Operands) (len : Word64), ∃ hi lo, lengthOperand { o with lenHi := hi, lenLo := lo } = len

/-! ## Host accesses -/

/-- 20_memory.md R53: an access that is not 32 bits wide or not 4-byte aligned records BadAccess and changes no other
state. -/
def Obligations.BadAccessChangesOnlyTheRecord : Prop :=
  ∀ (off size x : Nat) (v : Word32) (s : State), (size ≠ 4 ∨ off % 4 ≠ 0) →
    memWrite off size v s = .next { s with faults := s.faults ++ [.badAccess off size] } ∧
    memRead off size s = .fault (.badAccess off size) ∧
    hostRead off size x s = { s with faults := s.faults ++ [.badAccess off size] }

/-- 20_memory.md R54: an aligned 32-bit access at an offset of 0x200 or above records OutOfWindow and changes no other
state. -/
def Obligations.OutOfWindowChangesOnlyTheRecord : Prop :=
  ∀ (off x : Nat) (v : Word32) (s : State), off % 4 = 0 → 0x200 ≤ off →
    memWrite off 4 v s = .next { s with faults := s.faults ++ [.outOfWindow off] } ∧
    memRead off 4 s = .fault (.outOfWindow off) ∧
    hostRead off 4 x s = { s with faults := s.faults ++ [.outOfWindow off] }

/-- 20_memory.md R52: a reserved offset reads as 0 and ignores writes. -/
def Obligations.ReservedOffsetsReadZeroAndIgnoreWrites : Prop :=
  ∀ (off x : Nat) (v : Word32) (s : State), off % 4 = 0 →
    ((0x020 ≤ off ∧ off ≤ 0x07C) ∨ (0x180 ≤ off ∧ off ≤ 0x1FC)) →
    memRead off 4 s = .value 0#32 ∧ memWrite off 4 v s = .next s ∧
    hostRead off 4 x s = { s with hostVars := setHostVar s.hostVars x 0#32 }

/-- 20_memory.md R59: the read function, register by register, and that a read changes nothing of the block: it sets the
host's variable, or records a fault. -/
def Obligations.ReadFunction : Prop :=
  (∀ s : State,
    memRead 0x000 4 s = .value 0#32 ∧
    memRead 0x004 4 s =
      .value ((BitVec.ofBool s.status.illegal ++ BitVec.ofBool s.status.done ++
        BitVec.ofBool s.status.busy).setWidth 32) ∧
    memRead 0x008 4 s = (if s.written.crcA then .value s.operands.crcA else .fault (.unwrittenRead 0x008)) ∧
    memRead 0x00C 4 s = (if s.written.crcB then .value s.operands.crcB else .fault (.unwrittenRead 0x00C)) ∧
    memRead 0x010 4 s = (if s.written.lenLo then .value s.operands.lenLo else .fault (.unwrittenRead 0x010)) ∧
    memRead 0x014 4 s = (if s.written.lenHi then .value s.operands.lenHi else .fault (.unwrittenRead 0x014)) ∧
    memRead 0x018 4 s = (if s.written.vec then .value s.operands.vec else .fault (.unwrittenRead 0x018)) ∧
    memRead 0x01C 4 s =
      (if s.status.busy then .fault (.outputReadWhileBusy 0x01C)
       else if s.valid.result then .value s.results.result else .fault (.unwrittenRead 0x01C)) ∧
    (∀ n : Fin 32, memRead (0x080 + 4 * n.val) 4 s =
      (if s.written.matIn[n] then .value s.operands.matIn[n] else .fault (.unwrittenRead (0x080 + 4 * n.val)))) ∧
    (∀ n : Fin 32, memRead (0x100 + 4 * n.val) 4 s =
      (if s.status.busy then .fault (.outputReadWhileBusy (0x100 + 4 * n.val))
       else if s.valid.matOut then .value s.results.matOut[n]
       else .fault (.unwrittenRead (0x100 + 4 * n.val)))) ∧
    (∀ off, off % 4 = 0 → ((0x020 ≤ off ∧ off ≤ 0x07C) ∨ (0x180 ≤ off ∧ off ≤ 0x1FC)) →
      memRead off 4 s = .value 0#32)) ∧
  ∀ (off size x : Nat) (s : State),
    (∀ v, memRead off size s = .value v →
      hostRead off size x s = { s with hostVars := setHostVar s.hostVars x v }) ∧
    (∀ f, memRead off size s = .fault f → hostRead off size x s = { s with faults := s.faults ++ [f] })

/-- 20_memory.md R60, R57, R58: the write function, register by register, whether or not the block is busy. -/
def Obligations.WriteFunction : Prop :=
  ∀ (v : Word32) (s : State),
    memWrite 0x000 4 v s = commandWrite v s ∧
    memWrite 0x008 4 v s =
      .next { s with operands := { s.operands with crcA := v }, written := { s.written with crcA := true } } ∧
    memWrite 0x00C 4 v s =
      .next { s with operands := { s.operands with crcB := v }, written := { s.written with crcB := true } } ∧
    memWrite 0x010 4 v s =
      .next { s with operands := { s.operands with lenLo := v }, written := { s.written with lenLo := true } } ∧
    memWrite 0x014 4 v s =
      .next { s with operands := { s.operands with lenHi := v }, written := { s.written with lenHi := true } } ∧
    memWrite 0x018 4 v s =
      .next { s with operands := { s.operands with vec := v }, written := { s.written with vec := true } } ∧
    (∀ n : Fin 32, memWrite (0x080 + 4 * n.val) 4 v s =
      .next
        { s with
          operands := { s.operands with matIn := s.operands.matIn.set n v }
          written := { s.written with matIn := s.written.matIn.set n true } }) ∧
    memWrite 0x004 4 v s = .next s ∧ memWrite 0x01C 4 v s = .next s ∧
    (∀ n : Fin 32, memWrite (0x100 + 4 * n.val) 4 v s = .next s) ∧
    (∀ off, off % 4 = 0 → ((0x020 ≤ off ∧ off ≤ 0x07C) ∨ (0x180 ≤ off ∧ off ≤ 0x1FC)) →
      memWrite off 4 v s = .next s)

/-- An operand register reads back the value written to it, and every other access of the window reads as before
(20_memory.md R57, R59). -/
def Obligations.OperandRegisterReadsBack : Prop :=
  ∀ (r : RegName) (v : Word32) (s : State), isOperand r = true →
    ∃ t, memWrite (regOffset r) 4 v s = .next t ∧
      memRead (regOffset r) 4 t = .value v ∧
      ∀ off size, off ≠ regOffset r → memRead off size t = memRead off size s

/-- 20_memory.md R63: only a write to `CMD` does more than store a value, and it is not idempotent; a repeated write of an
operand register leaves the same state; a read changes what no later read of the block answers. -/
def Obligations.SideEffectsOfAccesses : Prop :=
  (∀ (off size : Nat) (v : Word32) (s t : State), regAt off ≠ some .cmd → memWrite off size v s = .next t →
    t = { s with operands := t.operands, written := t.written, faults := t.faults }) ∧
  (∃ (w : Word32) (s t u : State), memWrite 0x000 4 w s = .next t ∧ memWrite 0x000 4 w t = .next u ∧ u ≠ t) ∧
  (∀ (r : RegName) (v : Word32) (s t : State), isOperand r = true →
    memWrite (regOffset r) 4 v s = .next t → memWrite (regOffset r) 4 v t = .next t) ∧
  ∀ (off size x off' size' : Nat) (s : State),
    memRead off' size' (hostRead off size x s) = memRead off' size' s ∧
    hostRead off size x s =
      { s with hostVars := (hostRead off size x s).hostVars, faults := (hostRead off size x s).faults }

/-! ## Command issue -/

/-- 40_command_issue.md R101: a command write while busy records CmdWhileBusy, whatever the word, and changes nothing else;
while idle it clears DONE, or it faults and changes nothing else. -/
def Obligations.CommandWriteWhileBusyIsOnlyRecorded : Prop :=
  (∀ (w : Word32) (s : State), s.status.busy = true →
    memWrite 0x000 4 w s = .next { s with faults := s.faults ++ [.cmdWhileBusy w] }) ∧
  (∀ (i : Instr) (s : State), s.status.busy = true →
    exec i s = .next { s with faults := s.faults ++ [.cmdWhileBusy (encode i)] }) ∧
  ∀ (w : Word32) (s t : State), s.status.busy = false → memWrite 0x000 4 w s = .next t →
    (t.faults = s.faults → t.status.done = false) ∧
    (t.faults ≠ s.faults → t = { s with faults := t.faults })

/-- 30_encoding.md R83 and 40_command_issue.md R102: every word but three is illegal, and an illegal word written while
idle sets ILLEGAL, clears DONE and changes nothing else. -/
def Obligations.IllegalWordOnlyMarksStatus : Prop :=
  (∀ w : Word32, (∃ why, decode w = .illegal why) ↔
    (w ≠ 0x00000001#32 ∧ w ≠ 0x00000002#32 ∧ w ≠ 0x00000003#32)) ∧
  ∀ (w : Word32) (s : State), s.status.busy = false →
    w ≠ 0x00000001#32 → w ≠ 0x00000002#32 → w ≠ 0x00000003#32 →
    memWrite 0x000 4 w s = .next { s with status := { busy := false, done := false, illegal := true } }

/-- 40_command_issue.md R103: a legal command with an unwritten operand issues nothing and records UnwrittenOperand with
exactly the unwritten registers the command needs. -/
def Obligations.UnwrittenOperandTurnsCommandAway : Prop :=
  ∀ (i : Instr) (s : State), s.status.busy = false → ¬OperandsWritten i s.written →
    ∃ regs, exec i s = .next { s with faults := s.faults ++ [.unwrittenOperand i regs] } ∧
      memWrite 0x000 4 (encode i) s = .next { s with faults := s.faults ++ [.unwrittenOperand i regs] } ∧
      ∀ r, r ∈ regs ↔ needs i r = true ∧ isWritten s.written r = false

/-- 40_command_issue.md R104, R105: a legal command with its operands written is issued: the status bits, the latched
operands and the start phase, and nothing else; and after issue no engine step reads an operand register. This is the
completion statement of MULT, SQUARE and COMBINE. -/
def Obligations.LegalCommandIsIssued : Prop :=
  (∀ (i : Instr) (s : State), s.status.busy = false → OperandsWritten i s.written →
    exec i s = .next
      { s with
        status := { busy := true, done := false, illegal := false }
        engine :=
          match i with
          | .mult => { s.engine with phase := .mExec, mat := s.operands.matIn, vec := s.operands.vec }
          | .square => { s.engine with phase := .sExec, mat := s.operands.matIn }
          | .combine =>
            { s.engine with
              phase := .cCheck, crc := s.operands.crcA, crcB := s.operands.crcB
              len := s.operands.lenHi ++ s.operands.lenLo } } ∧
    memWrite 0x000 4 (encode i) s = exec i s) ∧
  ∀ (s : State) (o : Operands), engineStep { s with operands := o } = { engineStep s with operands := o }

/-- MULT (41_matrix_ops.md R136, R137): issued, and its one engine step writes the product to `RESULT`; `MAT_OUT`, the
operand registers and everything else keep their values. -/
def Obligations.MultWritesTheProduct : Prop :=
  ∀ s : State, s.status.busy = false → OperandsWritten .mult s.written →
    ∃ t, exec .mult s = .next t ∧
      engineStep t =
        { s with
          status := { busy := false, done := true, illegal := false }
          results := { s.results with result := gf2Mult s.operands.matIn s.operands.vec }
          valid := { s.valid with result := true }
          engine := { s.engine with phase := .idle, mat := s.operands.matIn, vec := s.operands.vec } }

/-- SQUARE (41_matrix_ops.md R138, R139): issued, and its one engine step writes the square to `MAT_OUT`, word `n` being
the product of the matrix and its own word `n`; `RESULT`, `MAT_IN` and everything else keep their values. -/
def Obligations.SquareWritesTheSquare : Prop :=
  ∀ s : State, s.status.busy = false → OperandsWritten .square s.written →
    ∃ t m, exec .square s = .next t ∧
      engineStep t =
        { s with
          status := { busy := false, done := true, illegal := false }
          results := { s.results with matOut := m }
          valid := { s.valid with matOut := true }
          engine := { s.engine with phase := .idle, mat := s.operands.matIn } } ∧
      ∀ n : Fin 32, m[n] = gf2Mult s.operands.matIn s.operands.matIn[n]

/-- COMBINE (42_combiner.md R169, R176): issued, and after 1 engine step (length 0) or `K + 5` of them `RESULT` is
`combine` of the operands at issue; every host-visible register but `STATUS` and `RESULT` keeps its value. -/
def Obligations.CombineWritesCombine : Prop :=
  ∀ s : State, s.status.busy = false → OperandsWritten .combine s.written →
    ∃ t u, exec .combine s = .next t ∧ u = engineSteps (commandSteps .combine s.operands) t ∧
      u = { s with
            status := { busy := false, done := true, illegal := false }
            results := { s.results with
              result := combine s.operands.crcA s.operands.crcB (s.operands.lenHi ++ s.operands.lenLo) }
            valid := { s.valid with result := true }
            engine := u.engine } ∧
      u.engine.phase = .idle

/-- The frame of MULT, SQUARE and COMBINE's command write: operand and result registers, flags, host and the engine
registers the command does not latch are unchanged, and every access other than of `STATUS`, `RESULT` and `MAT_OUT[n]`
(whose reads depend on BUSY) reads as before (10_state.md R26 to R37, 40_command_issue.md R105). -/
def Obligations.CommandWriteFrame : Prop :=
  ∀ (i : Instr) (s t : State), exec i s = .next t →
    t.operands = s.operands ∧ t.results = s.results ∧ t.written = s.written ∧ t.valid = s.valid ∧
    t.hostProgram = s.hostProgram ∧ t.hostVars = s.hostVars ∧ t.turns = s.turns ∧
    t.engine.sel = s.engine.sel ∧ t.engine.even = s.engine.even ∧ t.engine.odd = s.engine.odd ∧
    (i = .mult → t.engine.crc = s.engine.crc ∧ t.engine.crcB = s.engine.crcB ∧ t.engine.len = s.engine.len) ∧
    (i = .square → t.engine.vec = s.engine.vec ∧
      t.engine.crc = s.engine.crc ∧ t.engine.crcB = s.engine.crcB ∧ t.engine.len = s.engine.len) ∧
    (i = .combine → t.engine.mat = s.engine.mat ∧ t.engine.vec = s.engine.vec) ∧
    ∀ off size, regAt off ≠ some .status → regAt off ≠ some .result → (∀ n, regAt off ≠ some (.matOut n)) →
      memRead off size t = memRead off size s

/-! ## Engine steps -/

/-- 40_command_issue.md R106: the engine has a step exactly when its phase is not IDLE; a step writes engine-internal
registers only, but for a completion step, and what it makes of them depends on them alone. -/
def Obligations.EngineStepTouchesOnlyTheEngine : Prop :=
  (∀ s : State, engineStep s = s ↔ s.engine.phase = .idle) ∧
  (∀ s : State,
    (engineStep s).operands = s.operands ∧ (engineStep s).written = s.written ∧
    (engineStep s).faults = s.faults ∧ (engineStep s).hostProgram = s.hostProgram ∧
    (engineStep s).hostVars = s.hostVars ∧ (engineStep s).turns = s.turns ∧
    ((engineStep s).engine.phase ≠ .idle →
      (engineStep s).status = s.status ∧ (engineStep s).results = s.results ∧ (engineStep s).valid = s.valid)) ∧
  ∀ s t : State, s.engine = t.engine → (engineStep s).engine = (engineStep t).engine

/-- 40_command_issue.md R109: the step that ends a command writes its output, BUSY, DONE, the phase and the valid flag of
what it wrote, at once; the output the command does not write keeps its value and its flag; and no step before it writes an
output or STATUS. -/
def Obligations.CompletionIsOneStep : Prop :=
  ∀ s : State, s.engine.phase ≠ .idle →
    ((engineStep s).engine.phase = .idle →
      (engineStep s).status = { s.status with busy := false, done := true } ∧
      (s.engine.phase = .sExec →
        (engineStep s).valid = { s.valid with matOut := true } ∧
        (engineStep s).results = { s.results with matOut := gf2Square s.engine.mat }) ∧
      (s.engine.phase ≠ .sExec →
        CompletesWithResult s.engine ∧ (engineStep s).valid = { s.valid with result := true } ∧
        (engineStep s).results =
          { s.results with
            result :=
              if s.engine.phase = .mExec then gf2Mult s.engine.mat s.engine.vec
              else if s.engine.phase = .cFinal then s.engine.crc ^^^ s.engine.crcB
              else s.engine.crc })) ∧
    ((engineStep s).engine.phase ≠ .idle →
      (engineStep s).status = s.status ∧ (engineStep s).results = s.results ∧ (engineStep s).valid = s.valid)

/-- 41_matrix_ops.md R137, R139: the engine steps `M_EXEC` and `S_EXEC`, whole. -/
def Obligations.MatrixEngineSteps : Prop :=
  (∀ s : State, s.engine.phase = .mExec → engineStep s =
    { s with
      results := { s.results with result := gf2Mult s.engine.mat s.engine.vec }
      valid := { s.valid with result := true }
      status := { s.status with busy := false, done := true }
      engine := { s.engine with phase := .idle } }) ∧
  ∀ s : State, s.engine.phase = .sExec → engineStep s =
    { s with
      results := { s.results with matOut := Vector.ofFn fun n => gf2Mult s.engine.mat s.engine.mat[n] }
      valid := { s.valid with matOut := true }
      status := { s.status with busy := false, done := true }
      engine := { s.engine with phase := .idle } }

/-- 42_combiner.md R170 to R173: the engine steps `C_CHECK`, `C_BOOT`, `C_SQ1` and `C_SQ2`, whole; and the powers of `BOOT`
that `C_SQ1` and `C_SQ2` make of what the step before each left. -/
def Obligations.CombineSetupSteps : Prop :=
  (∀ s : State, s.engine.phase = .cCheck → s.engine.len = 0#64 → engineStep s =
    { s with
      results := { s.results with result := s.engine.crc }
      valid := { s.valid with result := true }
      status := { s.status with busy := false, done := true }
      engine := { s.engine with phase := .idle } }) ∧
  (∀ s : State, s.engine.phase = .cCheck → s.engine.len ≠ 0#64 →
    engineStep s = { s with engine := { s.engine with phase := .cBoot } }) ∧
  (∀ s : State, s.engine.phase = .cBoot →
    engineStep s = { s with engine := { s.engine with odd := boot, phase := .cSq1 } }) ∧
  (∀ s : State, s.engine.phase = .cSq1 →
    engineStep s = { s with engine := { s.engine with even := gf2Square s.engine.odd, phase := .cSq2 } }) ∧
  (∀ s : State, s.engine.phase = .cSq2 →
    engineStep s =
      { s with engine := { s.engine with odd := gf2Square s.engine.even, sel := .even, phase := .cIter } }) ∧
  (∀ s : State, s.engine.phase = .cSq1 → s.engine.odd = boot → (engineStep s).engine.even = matPow boot 2) ∧
  ∀ s : State, s.engine.phase = .cSq2 → s.engine.even = matPow boot 2 → (engineStep s).engine.odd = matPow boot 4

/-- 42_combiner.md R174: the engine step `C_ITER`, whole: the accumulator `E_SEL` names is overwritten with the square of
the other, and the new accumulator is applied. -/
def Obligations.CombineLoopStep : Prop :=
  (∀ s : State, s.engine.phase = .cIter → s.engine.sel = .even → engineStep s =
    { s with engine :=
      { s.engine with
        even := gf2Square s.engine.odd
        crc := if s.engine.len.getLsbD 0 then gf2Mult (gf2Square s.engine.odd) s.engine.crc else s.engine.crc
        len := s.engine.len >>> 1
        phase := if s.engine.len >>> 1 = 0#64 then .cFinal else .cIter
        sel := if s.engine.len >>> 1 = 0#64 then .even else .odd } }) ∧
  ∀ s : State, s.engine.phase = .cIter → s.engine.sel = .odd → engineStep s =
    { s with engine :=
      { s.engine with
        odd := gf2Square s.engine.even
        crc := if s.engine.len.getLsbD 0 then gf2Mult (gf2Square s.engine.even) s.engine.crc else s.engine.crc
        len := s.engine.len >>> 1
        phase := if s.engine.len >>> 1 = 0#64 then .cFinal else .cIter
        sel := if s.engine.len >>> 1 = 0#64 then .odd else .even } }

/-- 42_combiner.md R175: the engine step `C_FINAL`, whole; the other engine registers keep their last values. -/
def Obligations.CombineFinalStep : Prop :=
  ∀ s : State, s.engine.phase = .cFinal → engineStep s =
    { s with
      results := { s.results with result := s.engine.crc ^^^ s.engine.crcB }
      valid := { s.valid with result := true }
      status := { s.status with busy := false, done := true }
      engine := { s.engine with phase := .idle } }

/-! ## GF(2) operations -/

/-- 41_matrix_ops.md R130, R131: the loop with early exit equals both XOR forms, and any bound of 32 or more iterations
gives the same value. -/
def Obligations.MultEqualsBothXorForms : Prop :=
  ∀ (m : Mat) (v : Word32),
    gf2Mult m v = gf2MultXor m v ∧ gf2Mult m v = gf2MultFold m v ∧
    ∀ bound, 32 ≤ bound → gf2MultLoop m bound v 0 0#32 = gf2Mult m v

/-- 41_matrix_ops.md R132: zero (for which the loop reads no word of the matrix: its answer is the same for every matrix and
every bound), linearity, basis vectors, identity. -/
def Obligations.MultIsLinear : Prop :=
  (∀ m : Mat, gf2Mult m 0#32 = 0#32) ∧
  (∀ (m : Mat) (bound i : Nat) (result : Word32), gf2MultLoop m bound 0#32 i result = result) ∧
  (∀ (m : Mat) (u v : Word32), gf2Mult m (u ^^^ v) = gf2Mult m u ^^^ gf2Mult m v) ∧
  (∀ (m : Mat) (n : Fin 32), gf2Mult m (1#32 <<< n.val) = m[n]) ∧
  ∀ v : Word32, gf2Mult idMat v = v

/-- 41_matrix_ops.md R133, R134: word `n` of the square, the square as self-composition, and repeated squares as powers. -/
def Obligations.SquareIsSelfComposition : Prop :=
  (∀ (m : Mat) (n : Fin 32), (gf2Square m)[n] = gf2Mult m m[n]) ∧
  (∀ (m : Mat) (v : Word32), gf2Mult (gf2Square m) v = gf2Mult m (gf2Mult m v)) ∧
  ∀ (m : Mat) (j : Nat), squareTimes m j = matPow m (2 ^ j)

/-- The corner cases and the worked examples of 41_matrix_ops.md R136 and R138, for the values: the all-ones vector gives the
XOR of all 32 words; the squares of the identity, the zero matrix, the all-ones matrix and `BOOT`. (`VEC = 0` and the
identity as MULT's matrix are clauses of MultIsLinear.) -/
def Obligations.MatrixCornerCases : Prop :=
  (∀ m : Mat, gf2Mult m 0xFFFFFFFF#32 = m.toList.foldl (· ^^^ ·) 0#32) ∧
  gf2Mult boot 0xFFFFFFFF#32 = 0x92477CDF#32 ∧
  gf2Square idMat = idMat ∧ gf2Square zeroMat = zeroMat ∧
  gf2Square (Vector.replicate 32 0xFFFFFFFF#32) = zeroMat ∧
  (gf2Square boot)[(0 : Fin 32)] = 0x76DC4190#32 ∧ (gf2Square boot)[(1 : Fin 32)] = 0xEDB88320#32 ∧
  ∀ n : Fin 32, 2 ≤ n.val → (gf2Square boot)[n] = 1#32 <<< (n.val - 2)

/-! ## The combiner -/

/-- 42_combiner.md R160, R161: the words of the bootstrap matrix, and that it is one step of the reflected shift register
with a zero input bit. -/
def Obligations.BootAdvancesOneZeroBit : Prop :=
  boot[(0 : Fin 32)] = 0xEDB88320#32 ∧ (∀ n : Fin 32, 1 ≤ n.val → boot[n] = 1#32 <<< (n.val - 1)) ∧
  ∀ v : Word32, gf2Mult boot v = (v >>> 1) ^^^ (if v.getLsbD 0 then 0xEDB88320#32 else 0x00000000#32)

/-- 42_combiner.md R163: with length 0 the result is `crc_a`, whatever `crc_b` is. -/
def Obligations.CombineWithEmptyRightBuffer : Prop :=
  ∀ crcA crcB : Word32, combine crcA crcB 0#64 = crcA

/-- The closed form of 42_combiner.md R164, with two corner cases of R169. -/
def Obligations.CombineClosedForm : Prop :=
  (∀ (crcA crcB : Word32) (len : Word64), len ≠ 0#64 →
    combine crcA crcB len = gf2Mult (matPow boot (8 * len.toNat)) crcA ^^^ crcB) ∧
  (∀ k : Nat, squareTimes boot (k + 3) = matPow boot (8 * 2 ^ k)) ∧
  ∀ (crcB : Word32) (len : Word64), len ≠ 0#64 → combine 0#32 crcB len = crcB

/-- 42_combiner.md R167: the loop ends after at most 64 iterations: a larger bound gives the same value. -/
def Obligations.CombineLoopEndsWithin64 : Prop :=
  ∀ (bound : Nat) (even odd : Mat) (crc : Word32) (len : Word64) (sel : Sel), 64 ≤ bound →
    combineLoop bound even odd crc len sel = combineLoop 64 even odd crc len sel

/-- The algebraic form of 42_combiner.md R168: combining in chunks, from either side, gives the same value. -/
def Obligations.CombineIsChunkAssociative : Prop :=
  ∀ (a b c : Word32) (lb lc : Word64), lb ≠ 0#64 → lc ≠ 0#64 → lb.toNat + lc.toNat < 2 ^ 64 →
    combine (combine a b lb) c lc = combine a (combine b c lc) (lb + lc)

/-- 42_combiner.md R176: what the engine holds before each loop iteration, after it, at the end of the loop, and at
completion. -/
def Obligations.CombineLoopInvariant : Prop :=
  ∀ s : State, s.engine.phase = .cCheck →
    (s.engine.len ≠ 0#64 →
      (∀ k, k < bitLength s.engine.len →
        (engineSteps (k + 4) s).engine.phase = .cIter ∧
        (engineSteps (k + 4) s).engine.len = s.engine.len >>> k ∧
        (engineSteps (k + 4) s).engine.len ≠ 0#64 ∧
        (engineSteps (k + 4) s).engine.crc =
          gf2Mult (matPow boot (8 * (s.engine.len.toNat % 2 ^ k))) s.engine.crc ∧
        (engineSteps (k + 4) s).engine.sel = selAt k ∧
        otherAccumulator (engineSteps (k + 4) s).engine = squareTimes boot (k + 2) ∧
        otherAccumulator (engineSteps (k + 4) s).engine = matPow boot (2 ^ (k + 2)) ∧
        (if k % 2 = 0 then (engineSteps (k + 5) s).engine.even else (engineSteps (k + 5) s).engine.odd) =
          matPow boot (2 ^ (k + 3))) ∧
      (engineSteps (bitLength s.engine.len + 4) s).engine.phase = .cFinal ∧
      (engineSteps (bitLength s.engine.len + 4) s).engine.crc =
        gf2Mult (matPow boot (8 * s.engine.len.toNat)) s.engine.crc ∧
      (engineSteps (bitLength s.engine.len + 5) s).results.result =
        combine s.engine.crc s.engine.crcB s.engine.len) ∧
    (s.engine.len = 0#64 →
      (engineStep s).results.result = s.engine.crc ∧
      s.engine.crc = combine s.engine.crc s.engine.crcB 0#64)

/-- The engine step counts of 70_reset_and_hazards.md R250, and the order of the phases of COMBINE (42_combiner.md R169,
R165): the engine is idle after exactly that many steps and not before. -/
def Obligations.EngineStepCounts : Prop :=
  (∀ s : State, s.engine.phase = .mExec ∨ s.engine.phase = .sExec → (engineStep s).engine.phase = .idle) ∧
  (∀ s : State, s.engine.phase = .cCheck → s.engine.len = 0#64 → (engineStep s).engine.phase = .idle) ∧
  (∀ s : State, s.engine.phase = .cCheck → s.engine.len ≠ 0#64 →
    (engineSteps 1 s).engine.phase = .cBoot ∧ (engineSteps 2 s).engine.phase = .cSq1 ∧
    (engineSteps 3 s).engine.phase = .cSq2 ∧
    (∀ k, k < bitLength s.engine.len → (engineSteps (k + 4) s).engine.phase = .cIter) ∧
    (engineSteps (bitLength s.engine.len + 4) s).engine.phase = .cFinal ∧
    (engineSteps (bitLength s.engine.len + 5) s).engine.phase = .idle) ∧
  ∀ len : Word64, bitLength len ≤ 64 ∧ (len ≠ 0#64 → 1 ≤ bitLength len) ∧ (2 ^ 63 ≤ len.toNat → bitLength len = 64)

/-! ## Steps, interleavings and the whole machine -/

/-- A step runs the decoded command: when it is the host's turn and its next transaction writes a word that decodes to `i`
to `CMD`, the step is `exec i` on the state with the turn and the transaction taken (40_command_issue.md R99, R100). -/
def Obligations.StepRunsTheDecodedCommand : Prop :=
  ∀ (s : State) (v : HostValue) (rest : List HostOp) (i : Instr),
    nextTurn s = .host → s.hostProgram = .wr 0x000 4 v :: rest →
    decode (hostValue s.hostVars v) = .command i →
    step s = exec i { s with turns := s.turns.tail, hostProgram := rest }

/-- A placed command word runs in the very next step, on the state it was placed in (log 5). -/
def Obligations.PlacedCommandRunsNext : Prop :=
  ∀ (s : State) (nbits w : Nat) (i : Instr), decodeTableWord nbits w = some i →
    step (s.withFetchWord nbits w) = exec i s

/-- 40_command_issue.md R108: the outputs of a command are those of its operands at issue, whatever host transactions fall
between its engine steps: after any turns without a reset that hold as many engine turns as the command takes, the last
turn an engine turn, the command has completed with the value its rule gives (R136, R138, R169), and the output it does not
write is as it was. The interleaving is the model's list of turns (log 1). A host transaction among the turns may record a
fault (a command write while busy, R101), and the model's run goes on past it (log 2): there hardware may disturb the
command in flight, so for a run of hardware this says something only where the fault record stays as it was. -/
def Obligations.ResultIndependentOfInterleaving : Prop :=
  ∀ (i : Instr) (s t : State) (ts rest : List Turn),
    s.status.busy = false → OperandsWritten i s.written → s.turns = ts ++ .engine :: rest →
    (∀ x ∈ ts, x ≠ .reset) → ts.count .engine + 1 = commandSteps i s.operands →
    exec i s = .next t →
    ∃ u, runSteps (ts.length + 1) t = .next u ∧
      u.engine.phase = .idle ∧ u.status = { busy := false, done := true, illegal := false } ∧
      (i = .mult →
        u.results = { s.results with result := gf2Mult s.operands.matIn s.operands.vec }) ∧
      (i = .square → u.results = { s.results with matOut := gf2Square s.operands.matIn }) ∧
      (i = .combine →
        u.results = { s.results with
          result := combine s.operands.crcA s.operands.crcB (s.operands.lenHi ++ s.operands.lenLo) })

/-- 40_command_issue.md R110: while busy no host transaction changes the engine, STATUS or an output; reads of STATUS and
of written operand registers and writes of operand registers are no faults; reads of outputs and writes to `CMD` are. -/
def Obligations.HostCannotDisturbABusyEngine : Prop :=
  ∀ s : State, s.status.busy = true →
    (∀ t, hostTurn s = .next t →
      t.engine = s.engine ∧ t.status = s.status ∧ t.results = s.results ∧ t.valid = s.valid) ∧
    memRead (regOffset .status) 4 s = .value (statusWord s.status) ∧
    (∀ r, isOperand r = true → isWritten s.written r = true → ∃ v, memRead (regOffset r) 4 s = .value v) ∧
    (∀ r v, isOperand r = true → ∃ t, memWrite (regOffset r) 4 v s = .next t ∧ t.faults = s.faults) ∧
    memRead (regOffset .result) 4 s = .fault (.outputReadWhileBusy 0x01C) ∧
    (∀ n : Fin 32,
      memRead (regOffset (.matOut n)) 4 s = .fault (.outputReadWhileBusy (0x100 + 4 * n.val))) ∧
    ∀ w, memWrite 0x000 4 w s = .next { s with faults := s.faults ++ [.cmdWhileBusy w] }

/-- Every step keeps the status invariant: BUSY is 1 exactly when the phase is not IDLE, and at most one of BUSY, DONE and
ILLEGAL is 1 (10_state.md R22, 40_command_issue.md R102, R104, R109). -/
def Obligations.StatusInvKeptByEveryStep : Prop :=
  ∀ s t : State, StatusInv s → step s = .next t → StatusInv t

/-- Every step keeps what the accumulators of COMBINE hold in each phase (42_combiner.md R171 to R174, R176). -/
def Obligations.AccumulatorInvKeptByEveryStep : Prop :=
  ∀ s t : State, AccumulatorInv s → step s = .next t → AccumulatorInv t

/-- Every step keeps the host's variables strictly rising by number: the canonical form of the model's one list by key
(log 8). -/
def Obligations.HostVarsStaySorted : Prop :=
  ∀ s t : State, HostVarsSorted s → step s = .next t → HostVarsSorted t

/-- The three invariants hold at reset. -/
def Obligations.InvariantsHoldAtReset : Prop :=
  StatusInv State.reset ∧ AccumulatorInv State.reset ∧ HostVarsSorted State.reset

/-- In a state of the status invariant, a read of `STATUS` returns one of four words (95_test_vectors.md V-I1 to V-I4). -/
def Obligations.StatusReadsOneOfFourWords : Prop :=
  ∀ s : State, StatusInv s →
    memRead 0x004 4 s = .value 0x00000000#32 ∨ memRead 0x004 4 s = .value 0x00000001#32 ∨
    memRead 0x004 4 s = .value 0x00000002#32 ∨ memRead 0x004 4 s = .value 0x00000004#32

/-- 60_exceptions.md R201: no step removes an entry from the fault record (a step adds at most one), and a state whose
record is not empty is never final. -/
def Obligations.FaultRecordIsSticky : Prop :=
  (∀ s t : State, step s = .next t → ∃ more, t.faults = s.faults ++ more ∧ more.length ≤ 1) ∧
  ∀ s : State, s.faults ≠ [] → ¬Final s

/-- 10_state.md R40: both valid flags are false at reset, a completion step sets the flag of what it writes, and nothing
but reset clears one. -/
def Obligations.ValidFlagsFollowCompletions : Prop :=
  State.reset.valid = { result := false, matOut := false } ∧
  ∀ s t : State, step s = .next t →
    (nextTurn s = .reset → t.valid = { result := false, matOut := false }) ∧
    (nextTurn s = .host → t.valid = s.valid) ∧
    (nextTurn s = .engine →
      (t.valid.result = true ↔ s.valid.result = true ∨ CompletesWithResult s.engine) ∧
      (t.valid.matOut = true ↔ s.valid.matOut = true ∨ s.engine.phase = .sExec))

/-- 10_state.md R39: every written flag is false at reset, a host write to the register sets it, and nothing else writes
it. -/
def Obligations.WrittenFlagsFollowHostWrites : Prop :=
  (∀ r, isWritten State.reset.written r = false) ∧
  ∀ s t : State, step s = .next t →
    (nextTurn s = .reset → ∀ r, isWritten t.written r = false) ∧
    (nextTurn s = .engine → t.written = s.written) ∧
    (nextTurn s = .host → ∀ r, isOperand r = true →
      (isWritten t.written r = true ↔
        isWritten s.written r = true ∨ ∃ v rest, s.hostProgram = .wr (regOffset r) 4 v :: rest))

/-- `RESULT` changes only in a completion step of MULT or COMBINE, `MAT_OUT` only in one of SQUARE (10_state.md R30, R32),
or at reset, which leaves them unspecified (70_reset_and_hazards.md R230). -/
def Obligations.OutputsChangeOnlyAtCompletion : Prop :=
  ∀ s t : State, step s = .next t →
    (t.results.result ≠ s.results.result →
      nextTurn s = .reset ∨ (nextTurn s = .engine ∧ CompletesWithResult s.engine)) ∧
    (t.results.matOut ≠ s.results.matOut →
      nextTurn s = .reset ∨ (nextTurn s = .engine ∧ s.engine.phase = .sExec))

/-- 70_reset_and_hazards.md R230, R231, R232: the reset event, at any point, leaves the status bits, the phase and the flags
R230 gives, abandons a command in flight with no output valid, records no fault (R231) and clears none (R232). It says
nothing of the registers R230 leaves unspecified. That the host's program and variables stay, so that the host goes on after
a reset, is the model's choice (log 4), and so is the list of turns, which loses its head (log 1). -/
def Obligations.ResetAbandonsTheCommand : Prop :=
  ∀ s : State, nextTurn s = .reset →
    ∃ t, step s = .next t ∧ AfterReset t ∧ t.faults = s.faults ∧
      memRead 0x004 4 t = .value 0x00000000#32 ∧
      t.hostProgram = s.hostProgram ∧ t.hostVars = s.hostVars ∧ t.turns = s.turns.tail

/-- 70_reset_and_hazards.md R233: the launch state is the state after reset with an empty fault record. -/
def Obligations.LaunchStateIsClean : Prop :=
  CleanLaunch State.reset ∧ memRead 0x004 4 State.reset = .value 0x00000000#32

/-- No host can tell which values the registers that 70_reset_and_hazards.md R230 leaves unspecified hold after reset
(10_state.md R38 to R40): any two states after reset that agree on the host, the turns and the fault record are equivalent,
and every step takes equivalent states to equivalent states. So nothing that a host observes rests on the values of log 3
and log 4. -/
def Obligations.UnspecifiedResetValuesAreInvisible : Prop :=
  (∀ s t : State, AfterReset s → AfterReset t → s.faults = t.faults → s.hostProgram = t.hostProgram →
    s.hostVars = t.hostVars → s.turns = t.turns → HostEquiv s t) ∧
  ∀ s t s' : State, HostEquiv s t → step s = .next s' → ∃ t', step t = .next t' ∧ HostEquiv s' t'

/-- The engine reaches IDLE within the 69 steps of 70_reset_and_hazards.md R250 once no turn is listed: the model's runs
are fair to the engine (40_command_issue.md R107; the rule for an empty list of turns is the model's choice, log 1). -/
def Obligations.EngineReachesIdleWhenTurnsRunOut : Prop :=
  ∀ s : State, s.turns = [] → ∃ k t, k ≤ 69 ∧ runSteps k s = .next t ∧ t.engine.phase = .idle

/-- A final state (40_command_issue.md R112) stays as it is until a reset: each step takes a turn and changes nothing
else (60_exceptions.md R213; log 17). -/
def Obligations.FinalStateStays : Prop :=
  ∀ s : State, Final s → (∀ x ∈ s.turns, x ≠ .reset) → step s = .next { s with turns := s.turns.tail }

/-- WAIT (30_encoding.md R88): the host reads STATUS into the variable, stays at the WAIT exactly while BUSY is 1, and goes
on when it is 0; the block does not change. -/
def Obligations.WaitPollsUntilNotBusy : Prop :=
  ∀ (x : Nat) (rest : List HostOp) (s : State), s.hostProgram = .wait x :: rest →
    (s.status.busy = true →
      hostTurn s = .next { s with hostVars := setHostVar s.hostVars x (statusWord s.status) }) ∧
    (s.status.busy = false →
      hostTurn s = .next
        { s with hostProgram := rest, hostVars := setHostVar s.hostVars x (statusWord s.status) })

/-- CPMAT (30_encoding.md R88, R86): with `MAT_OUT` valid and the engine idle, its 64 transactions copy `MAT_OUT` to
`MAT_IN` word for word and record no fault. -/
def Obligations.CpMatCopiesTheSquare : Prop :=
  ∀ (x : Nat) (rest : List HostOp) (ts : List Turn) (s : State),
    s.hostProgram = txCpMat x ++ rest → s.turns = List.replicate 64 .host ++ ts →
    s.status.busy = false → s.valid.matOut = true →
    ∃ t, runSteps 64 s = .next t ∧ t.operands = { s.operands with matIn := s.results.matOut } ∧
      t.results = s.results ∧ t.faults = s.faults ∧ t.status = s.status ∧ t.engine = s.engine ∧
      t.hostProgram = rest ∧ t.turns = ts
end

