-- ==== Sys2Proof/Laws/State.lean ====
section
/-!
SUPPORT. One lemma per field per update of the state, each true by definition, and for the register write (whose field
depends on the register) one lemma per field it never writes.
-/

namespace Sys2Proof.Machine

/-! ### raise -/

@[simp] theorem raise_status (f : Fault) (s : State) : (raise f s).status = s.status := rfl
@[simp] theorem raise_operands (f : Fault) (s : State) : (raise f s).operands = s.operands := rfl
@[simp] theorem raise_results (f : Fault) (s : State) : (raise f s).results = s.results := rfl
@[simp] theorem raise_engine (f : Fault) (s : State) : (raise f s).engine = s.engine := rfl
@[simp] theorem raise_written (f : Fault) (s : State) : (raise f s).written = s.written := rfl
@[simp] theorem raise_valid (f : Fault) (s : State) : (raise f s).valid = s.valid := rfl
@[simp] theorem raise_faults (f : Fault) (s : State) : (raise f s).faults = s.faults ++ [f] := rfl
@[simp] theorem raise_hostProgram (f : Fault) (s : State) : (raise f s).hostProgram = s.hostProgram := rfl
@[simp] theorem raise_hostVars (f : Fault) (s : State) : (raise f s).hostVars = s.hostVars := rfl
@[simp] theorem raise_turns (f : Fault) (s : State) : (raise f s).turns = s.turns := rfl

/-! ### markIllegal -/

@[simp] theorem markIllegal_status (s : State) : (markIllegal s).status = illegalStatus s.status := rfl
@[simp] theorem markIllegal_operands (s : State) : (markIllegal s).operands = s.operands := rfl
@[simp] theorem markIllegal_results (s : State) : (markIllegal s).results = s.results := rfl
@[simp] theorem markIllegal_engine (s : State) : (markIllegal s).engine = s.engine := rfl
@[simp] theorem markIllegal_written (s : State) : (markIllegal s).written = s.written := rfl
@[simp] theorem markIllegal_valid (s : State) : (markIllegal s).valid = s.valid := rfl
@[simp] theorem markIllegal_faults (s : State) : (markIllegal s).faults = s.faults := rfl
@[simp] theorem markIllegal_hostProgram (s : State) : (markIllegal s).hostProgram = s.hostProgram := rfl
@[simp] theorem markIllegal_hostVars (s : State) : (markIllegal s).hostVars = s.hostVars := rfl
@[simp] theorem markIllegal_turns (s : State) : (markIllegal s).turns = s.turns := rfl

/-! ### issue -/

@[simp] theorem issue_status (i : Instr) (s : State) : (issue i s).status = issueStatus s.status := rfl
@[simp] theorem issue_operands (i : Instr) (s : State) : (issue i s).operands = s.operands := rfl
@[simp] theorem issue_results (i : Instr) (s : State) : (issue i s).results = s.results := rfl
@[simp] theorem issue_engine (i : Instr) (s : State) : (issue i s).engine = { latch i s.operands s.engine with phase := startPhase i } := rfl
@[simp] theorem issue_written (i : Instr) (s : State) : (issue i s).written = s.written := rfl
@[simp] theorem issue_valid (i : Instr) (s : State) : (issue i s).valid = s.valid := rfl
@[simp] theorem issue_faults (i : Instr) (s : State) : (issue i s).faults = s.faults := rfl
@[simp] theorem issue_hostProgram (i : Instr) (s : State) : (issue i s).hostProgram = s.hostProgram := rfl
@[simp] theorem issue_hostVars (i : Instr) (s : State) : (issue i s).hostVars = s.hostVars := rfl
@[simp] theorem issue_turns (i : Instr) (s : State) : (issue i s).turns = s.turns := rfl

/-! ### setEngine -/

@[simp] theorem setEngine_status (e : Engine) (s : State) : (setEngine e s).status = s.status := rfl
@[simp] theorem setEngine_operands (e : Engine) (s : State) : (setEngine e s).operands = s.operands := rfl
@[simp] theorem setEngine_results (e : Engine) (s : State) : (setEngine e s).results = s.results := rfl
@[simp] theorem setEngine_engine (e : Engine) (s : State) : (setEngine e s).engine = e := rfl
@[simp] theorem setEngine_written (e : Engine) (s : State) : (setEngine e s).written = s.written := rfl
@[simp] theorem setEngine_valid (e : Engine) (s : State) : (setEngine e s).valid = s.valid := rfl
@[simp] theorem setEngine_faults (e : Engine) (s : State) : (setEngine e s).faults = s.faults := rfl
@[simp] theorem setEngine_hostProgram (e : Engine) (s : State) : (setEngine e s).hostProgram = s.hostProgram := rfl
@[simp] theorem setEngine_hostVars (e : Engine) (s : State) : (setEngine e s).hostVars = s.hostVars := rfl
@[simp] theorem setEngine_turns (e : Engine) (s : State) : (setEngine e s).turns = s.turns := rfl

/-! ### setPhase -/

@[simp] theorem setPhase_status (p : Phase) (s : State) : (setPhase p s).status = s.status := rfl
@[simp] theorem setPhase_operands (p : Phase) (s : State) : (setPhase p s).operands = s.operands := rfl
@[simp] theorem setPhase_results (p : Phase) (s : State) : (setPhase p s).results = s.results := rfl
@[simp] theorem setPhase_engine (p : Phase) (s : State) : (setPhase p s).engine = { s.engine with phase := p } := rfl
@[simp] theorem setPhase_written (p : Phase) (s : State) : (setPhase p s).written = s.written := rfl
@[simp] theorem setPhase_valid (p : Phase) (s : State) : (setPhase p s).valid = s.valid := rfl
@[simp] theorem setPhase_faults (p : Phase) (s : State) : (setPhase p s).faults = s.faults := rfl
@[simp] theorem setPhase_hostProgram (p : Phase) (s : State) : (setPhase p s).hostProgram = s.hostProgram := rfl
@[simp] theorem setPhase_hostVars (p : Phase) (s : State) : (setPhase p s).hostVars = s.hostVars := rfl
@[simp] theorem setPhase_turns (p : Phase) (s : State) : (setPhase p s).turns = s.turns := rfl

/-! ### complete -/

@[simp] theorem complete_status (s : State) : (complete s).status = completeStatus s.status := rfl
@[simp] theorem complete_operands (s : State) : (complete s).operands = s.operands := rfl
@[simp] theorem complete_results (s : State) : (complete s).results = s.results := rfl
@[simp] theorem complete_engine (s : State) : (complete s).engine = { s.engine with phase := .idle } := rfl
@[simp] theorem complete_written (s : State) : (complete s).written = s.written := rfl
@[simp] theorem complete_valid (s : State) : (complete s).valid = s.valid := rfl
@[simp] theorem complete_faults (s : State) : (complete s).faults = s.faults := rfl
@[simp] theorem complete_hostProgram (s : State) : (complete s).hostProgram = s.hostProgram := rfl
@[simp] theorem complete_hostVars (s : State) : (complete s).hostVars = s.hostVars := rfl
@[simp] theorem complete_turns (s : State) : (complete s).turns = s.turns := rfl

/-! ### completeResult -/

@[simp] theorem completeResult_status (v : Word32) (s : State) : (completeResult v s).status = completeStatus s.status := rfl
@[simp] theorem completeResult_operands (v : Word32) (s : State) : (completeResult v s).operands = s.operands := rfl
@[simp] theorem completeResult_results (v : Word32) (s : State) : (completeResult v s).results = { s.results with result := v } := rfl
@[simp] theorem completeResult_engine (v : Word32) (s : State) : (completeResult v s).engine = { s.engine with phase := .idle } := rfl
@[simp] theorem completeResult_written (v : Word32) (s : State) : (completeResult v s).written = s.written := rfl
@[simp] theorem completeResult_valid (v : Word32) (s : State) : (completeResult v s).valid = { s.valid with result := true } := rfl
@[simp] theorem completeResult_faults (v : Word32) (s : State) : (completeResult v s).faults = s.faults := rfl
@[simp] theorem completeResult_hostProgram (v : Word32) (s : State) : (completeResult v s).hostProgram = s.hostProgram := rfl
@[simp] theorem completeResult_hostVars (v : Word32) (s : State) : (completeResult v s).hostVars = s.hostVars := rfl
@[simp] theorem completeResult_turns (v : Word32) (s : State) : (completeResult v s).turns = s.turns := rfl

/-! ### completeMatOut -/

@[simp] theorem completeMatOut_status (m : Mat) (s : State) : (completeMatOut m s).status = completeStatus s.status := rfl
@[simp] theorem completeMatOut_operands (m : Mat) (s : State) : (completeMatOut m s).operands = s.operands := rfl
@[simp] theorem completeMatOut_results (m : Mat) (s : State) : (completeMatOut m s).results = { s.results with matOut := m } := rfl
@[simp] theorem completeMatOut_engine (m : Mat) (s : State) : (completeMatOut m s).engine = { s.engine with phase := .idle } := rfl
@[simp] theorem completeMatOut_written (m : Mat) (s : State) : (completeMatOut m s).written = s.written := rfl
@[simp] theorem completeMatOut_valid (m : Mat) (s : State) : (completeMatOut m s).valid = { s.valid with matOut := true } := rfl
@[simp] theorem completeMatOut_faults (m : Mat) (s : State) : (completeMatOut m s).faults = s.faults := rfl
@[simp] theorem completeMatOut_hostProgram (m : Mat) (s : State) : (completeMatOut m s).hostProgram = s.hostProgram := rfl
@[simp] theorem completeMatOut_hostVars (m : Mat) (s : State) : (completeMatOut m s).hostVars = s.hostVars := rfl
@[simp] theorem completeMatOut_turns (m : Mat) (s : State) : (completeMatOut m s).turns = s.turns := rfl

/-! ### resetBlock -/

@[simp] theorem resetBlock_status (s : State) : (resetBlock s).status = Status.reset := rfl
@[simp] theorem resetBlock_operands (s : State) : (resetBlock s).operands = Operands.reset := rfl
@[simp] theorem resetBlock_results (s : State) : (resetBlock s).results = Results.reset := rfl
@[simp] theorem resetBlock_engine (s : State) : (resetBlock s).engine = Engine.reset := rfl
@[simp] theorem resetBlock_written (s : State) : (resetBlock s).written = Written.reset := rfl
@[simp] theorem resetBlock_valid (s : State) : (resetBlock s).valid = Valid.reset := rfl
@[simp] theorem resetBlock_faults (s : State) : (resetBlock s).faults = s.faults := rfl
@[simp] theorem resetBlock_hostProgram (s : State) : (resetBlock s).hostProgram = s.hostProgram := rfl
@[simp] theorem resetBlock_hostVars (s : State) : (resetBlock s).hostVars = s.hostVars := rfl
@[simp] theorem resetBlock_turns (s : State) : (resetBlock s).turns = s.turns := rfl

/-! ### dropTurn -/

@[simp] theorem dropTurn_status (s : State) : (dropTurn s).status = s.status := rfl
@[simp] theorem dropTurn_operands (s : State) : (dropTurn s).operands = s.operands := rfl
@[simp] theorem dropTurn_results (s : State) : (dropTurn s).results = s.results := rfl
@[simp] theorem dropTurn_engine (s : State) : (dropTurn s).engine = s.engine := rfl
@[simp] theorem dropTurn_written (s : State) : (dropTurn s).written = s.written := rfl
@[simp] theorem dropTurn_valid (s : State) : (dropTurn s).valid = s.valid := rfl
@[simp] theorem dropTurn_faults (s : State) : (dropTurn s).faults = s.faults := rfl
@[simp] theorem dropTurn_hostProgram (s : State) : (dropTurn s).hostProgram = s.hostProgram := rfl
@[simp] theorem dropTurn_hostVars (s : State) : (dropTurn s).hostVars = s.hostVars := rfl
@[simp] theorem dropTurn_turns (s : State) : (dropTurn s).turns = s.turns.tail := rfl

/-! ### placeCommand -/

@[simp] theorem placeCommand_status (w : Word32) (s : State) : (placeCommand w s).status = s.status := rfl
@[simp] theorem placeCommand_operands (w : Word32) (s : State) : (placeCommand w s).operands = s.operands := rfl
@[simp] theorem placeCommand_results (w : Word32) (s : State) : (placeCommand w s).results = s.results := rfl
@[simp] theorem placeCommand_engine (w : Word32) (s : State) : (placeCommand w s).engine = s.engine := rfl
@[simp] theorem placeCommand_written (w : Word32) (s : State) : (placeCommand w s).written = s.written := rfl
@[simp] theorem placeCommand_valid (w : Word32) (s : State) : (placeCommand w s).valid = s.valid := rfl
@[simp] theorem placeCommand_faults (w : Word32) (s : State) : (placeCommand w s).faults = s.faults := rfl
@[simp] theorem placeCommand_hostProgram (w : Word32) (s : State) : (placeCommand w s).hostProgram = wrReg .cmd w :: s.hostProgram := rfl
@[simp] theorem placeCommand_hostVars (w : Word32) (s : State) : (placeCommand w s).hostVars = s.hostVars := rfl
@[simp] theorem placeCommand_turns (w : Word32) (s : State) : (placeCommand w s).turns = .host :: s.turns := rfl

/-! ### writeRegister -/

@[simp] theorem writeRegister_status (r : RegName) (v : Word32) (s : State) :
    (writeRegister r v s).status = s.status := by cases r <;> rfl
@[simp] theorem writeRegister_results (r : RegName) (v : Word32) (s : State) :
    (writeRegister r v s).results = s.results := by cases r <;> rfl
@[simp] theorem writeRegister_engine (r : RegName) (v : Word32) (s : State) :
    (writeRegister r v s).engine = s.engine := by cases r <;> rfl
@[simp] theorem writeRegister_valid (r : RegName) (v : Word32) (s : State) :
    (writeRegister r v s).valid = s.valid := by cases r <;> rfl
@[simp] theorem writeRegister_faults (r : RegName) (v : Word32) (s : State) :
    (writeRegister r v s).faults = s.faults := by cases r <;> rfl
@[simp] theorem writeRegister_hostProgram (r : RegName) (v : Word32) (s : State) :
    (writeRegister r v s).hostProgram = s.hostProgram := by cases r <;> rfl
@[simp] theorem writeRegister_hostVars (r : RegName) (v : Word32) (s : State) :
    (writeRegister r v s).hostVars = s.hostVars := by cases r <;> rfl
@[simp] theorem writeRegister_turns (r : RegName) (v : Word32) (s : State) :
    (writeRegister r v s).turns = s.turns := by cases r <;> rfl

end Sys2Proof.Machine
end

