-- ==== Sys2Proof/Laws/Ops.lean ====
section
/-!
SUPPORT. One lemma for each shared operation that says everything it can do, so that later proofs cite it and do not
unfold the operation.
-/

namespace Sys2Proof.Machine

/-! ### The register map -/

theorem wordIndex_of_word (base : Nat) (n : Fin 32) : wordIndex base (base + 4 * n.val) = some n := by
  have h : base ≤ base + 4 * n.val ∧ base + 4 * n.val < base + 128 := by omega
  simp only [wordIndex, h, and_self, dif_pos, Option.some.injEq]
  apply Fin.ext
  simp only
  omega

theorem wordIndex_eq_none {base off : Nat} (h : off < base ∨ base + 128 ≤ off) : wordIndex base off = none := by
  simp only [wordIndex]
  rw [dif_neg]
  omega

@[simp] theorem regAt_regOffset (r : RegName) : regAt (regOffset r) = some r := by
  cases r with
  | matIn n =>
    have : ∀ k < 0x80, ¬(0x80 + 4 * n.val = k) := by omega
    simp [regAt, regOffset, this, wordIndex_of_word]
  | matOut n =>
    have : ∀ k < 0x80, ¬(0x100 + 4 * n.val = k) := by omega
    simp [regAt, regOffset, this, wordIndex_of_word, wordIndex_eq_none]
  | _ => rfl

/-- Every register lies at an aligned offset of the window. -/
theorem regOffset_bounds (r : RegName) : regOffset r % 4 = 0 ∧ regOffset r < 0x200 := by
  cases r with
  | matIn n => simp only [regOffset]; omega
  | matOut n => simp only [regOffset]; omega
  | _ => decide

/-- The fault of an access is none exactly when the access is 32 bits wide, aligned and in the window. -/
theorem accessFault_eq_none {off size : Nat} :
    accessFault off size = none ↔ size = 4 ∧ off % 4 = 0 ∧ off < 0x200 := by
  unfold accessFault Config.windowSize
  split
  · next h => simp only [reduceCtorEq, false_iff]; omega
  · next h =>
    split
    · next h2 => simp only [reduceCtorEq, false_iff]; omega
    · next h2 => simp only [true_iff]; omega

@[simp] theorem accessFault_regOffset (r : RegName) : accessFault (regOffset r) 4 = none :=
  accessFault_eq_none.mpr ⟨rfl, regOffset_bounds r⟩

/-! ### Reads and writes of a register by its name -/

theorem memRead_regOffset (r : RegName) (s : State) :
    memRead (regOffset r) 4 s = readRegister r (regOffset r) s := by
  simp [memRead]

theorem memWrite_cmd (w : Word32) (s : State) : memWrite (regOffset .cmd) 4 w s = commandWrite w s := by
  simp [memWrite]

theorem memWrite_regOffset {r : RegName} (h : r ≠ .cmd) (v : Word32) (s : State) :
    memWrite (regOffset r) 4 v s = .next (writeRegister r v s) := by
  cases r <;> simp_all [memWrite]

/-- A read depends on the status, the operand and result registers and the flags alone. -/
theorem memRead_congr {s t : State} (off size : Nat) (hst : t.status = s.status) (ho : t.operands = s.operands)
    (hr : t.results = s.results) (hw : t.written = s.written) (hv : t.valid = s.valid) :
    memRead off size t = memRead off size s := by
  unfold memRead
  split
  · rfl
  · split
    · next r _ => cases r <;> simp [readRegister, hst, ho, hr, hw, hv]
    · rfl

/-- Bit 0 of the status word is BUSY. -/
@[simp] theorem statusWord_busy (st : Status) : (statusWord st).getLsbD 0 = st.busy := by
  obtain ⟨busy, done, illegal⟩ := st
  cases busy <;> cases done <;> cases illegal <;> decide

/-! ### Commands -/

/-- Every command is the shared command write of its own operands, latch and start phase. -/
theorem exec_eq (i : Instr) (s : State) : exec i s = .next (issueCommand i s) := by
  cases i <;> rfl

/-- A command is turned away busy, turned away with unwritten operands, or issued; nothing else. -/
theorem exec_cases {i : Instr} {s t : State} (h : exec i s = .next t) :
    (s.status.busy = true ∧ t = raise (.cmdWhileBusy (encode i)) s) ∨
    (s.status.busy = false ∧ unwrittenOperands i s.written ≠ [] ∧
      t = raise (.unwrittenOperand i (unwrittenOperands i s.written)) s) ∨
    (s.status.busy = false ∧ unwrittenOperands i s.written = [] ∧ t = issue i s) := by
  rw [exec_eq] at h
  obtain rfl := (Host.Outcome.next.inj h).symm
  unfold issueCommand
  cases hb : s.status.busy
  · by_cases hm : unwrittenOperands i s.written = [] <;> simp [hm]
  · simp

/-- The list of unwritten operands is empty exactly when every flag beside a register in it is set. -/
theorem unwrittenOf_eq_nil {regs : List (RegName × Bool)} : unwrittenOf regs = [] ↔ ∀ r ∈ regs, r.2 = true := by
  simp [unwrittenOf]

/-- A register is in the list of unwritten operands exactly when it stands beside a flag that is not set. -/
theorem mem_unwrittenOf {regs : List (RegName × Bool)} {r : RegName} :
    r ∈ unwrittenOf regs ↔ (r, false) ∈ regs := by
  simp [unwrittenOf]

/-- What a write to `CMD` can do. -/
theorem commandWrite_cases {w : Word32} {s t : State} (h : commandWrite w s = .next t) :
    (s.status.busy = true ∧ t = raise (.cmdWhileBusy w) s) ∨
    (s.status.busy = false ∧ (∃ why, decode w = .illegal why) ∧ t = markIllegal s) ∨
    (s.status.busy = false ∧ ∃ i, decode w = .command i ∧ unwrittenOperands i s.written ≠ [] ∧
      t = raise (.unwrittenOperand i (unwrittenOperands i s.written)) s) ∨
    (s.status.busy = false ∧ ∃ i, decode w = .command i ∧ unwrittenOperands i s.written = [] ∧
      t = issue i s) := by
  unfold commandWrite at h
  cases hb : s.status.busy
  · simp only [hb, Bool.false_eq_true, if_false] at h
    split at h
    · next why hd => exact .inr (.inl ⟨rfl, ⟨why, hd⟩, (Host.Outcome.next.inj h).symm⟩)
    · next i hd =>
      obtain ⟨hb', _⟩ | ⟨_, hu, ht⟩ | ⟨_, hu, ht⟩ := exec_cases h
      · simp [hb] at hb'
      · exact .inr (.inr (.inl ⟨rfl, i, hd, hu, ht⟩))
      · exact .inr (.inr (.inr ⟨rfl, i, hd, hu, ht⟩))
  · simp only [hb, if_true] at h
    exact .inl ⟨rfl, (Host.Outcome.next.inj h).symm⟩

theorem commandWrite_next (w : Word32) (s : State) : ∃ t, commandWrite w s = .next t := by
  unfold commandWrite
  split
  · exact ⟨_, rfl⟩
  · split
    · exact ⟨_, rfl⟩
    · exact ⟨_, exec_eq _ s⟩

/-- What a host write can do: a fault of the access, a command write, a register write, or nothing. -/
theorem memWrite_cases {off size : Nat} {v : Word32} {s t : State} (h : memWrite off size v s = .next t) :
    (∃ f, accessFault off size = some f ∧ t = raise f s) ∨
    (accessFault off size = none ∧ regAt off = some .cmd ∧ commandWrite v s = .next t) ∨
    (accessFault off size = none ∧ ∃ r, r ≠ .cmd ∧ regAt off = some r ∧ t = writeRegister r v s) ∨
    (accessFault off size = none ∧ regAt off = none ∧ t = s) := by
  unfold memWrite at h
  split at h
  · next f hf => exact .inl ⟨f, hf, (Host.Outcome.next.inj h).symm⟩
  · next hf =>
    split at h
    · next hr => exact .inr (.inl ⟨hf, hr, h⟩)
    · next r hne hr =>
      exact .inr (.inr (.inl ⟨hf, r, fun e => hne (e ▸ rfl), hr, (Host.Outcome.next.inj h).symm⟩))
    · next hr => exact .inr (.inr (.inr ⟨hf, hr, (Host.Outcome.next.inj h).symm⟩))

theorem memWrite_next (off size : Nat) (v : Word32) (s : State) : ∃ t, memWrite off size v s = .next t := by
  unfold memWrite
  split
  · exact ⟨_, rfl⟩
  · split
    · exact commandWrite_next v s
    · exact ⟨_, rfl⟩
    · exact ⟨_, rfl⟩

/-! ### The host -/

/-- What a host read can do: set the variable to the value read, or record the fault. -/
theorem hostRead_cases (off size x : Nat) (s : State) :
    (∃ v, memRead off size s = .value v ∧
      hostRead off size x s = { s with hostVars := setHostVar s.hostVars x v }) ∨
    (∃ f, memRead off size s = .fault f ∧ hostRead off size x s = raise f s) := by
  unfold hostRead
  cases h : memRead off size s with
  | value v => exact .inl ⟨v, rfl, rfl⟩
  | fault f => exact .inr ⟨f, rfl, rfl⟩

/-- A pass of WAIT reads `STATUS` into its variable and stays at the WAIT exactly while it reads busy. -/
theorem hostWait_eq (x : Nat) (rest : List HostOp) (s : State) :
    hostWait x rest s =
      { s with
        hostProgram := if s.status.busy then .wait x :: rest else rest
        hostVars := setHostVar s.hostVars x (statusWord s.status) } := by
  have hread : ∀ t : State, memRead (regOffset .status) 4 t = .value (statusWord t.status) := fun t => by
    rw [memRead_regOffset]; rfl
  simp only [hostWait, hostRead, hread, busyBit, statusWord_busy]

theorem hostTurn_next (s : State) : ∃ t, hostTurn s = .next t := by
  unfold hostTurn
  split
  · exact ⟨_, rfl⟩
  · exact memWrite_next _ _ _ _
  · exact ⟨_, rfl⟩
  · exact ⟨_, rfl⟩

/-- A host variable just set reads as the value it was set to. -/
@[simp] theorem hostVar_setHostVar_same (vars : List (Nat × Word32)) (x : Nat) (v : Word32) :
    hostVar (setHostVar vars x v) x = v := by
  induction vars with
  | nil => simp [setHostVar, hostVar]
  | cons p rest ih =>
    obtain ⟨y, u⟩ := p
    simp only [setHostVar]
    split
    · simp [hostVar]
    · split
      · simp [hostVar]
      · next h1 h2 => simp [hostVar, Ne.symm h2, ih]

/-- Setting one host variable leaves every other as it was. -/
theorem hostVar_setHostVar_other (vars : List (Nat × Word32)) {x z : Nat} (v : Word32) (h : z ≠ x) :
    hostVar (setHostVar vars x v) z = hostVar vars z := by
  induction vars with
  | nil => simp [setHostVar, hostVar, Ne.symm h]
  | cons p rest ih =>
    obtain ⟨y, u⟩ := p
    simp only [setHostVar]
    split
    · simp [hostVar, Ne.symm h]
    · split
      · next h2 => subst h2; simp [hostVar, Ne.symm h]
      · simp only [hostVar, ih]

theorem mem_setHostVar {vars : List (Nat × Word32)} {x : Nat} {v : Word32} {p : Nat × Word32}
    (h : p ∈ setHostVar vars x v) : p = (x, v) ∨ p ∈ vars := by
  induction vars with
  | nil => simpa [setHostVar] using h
  | cons q rest ih =>
    obtain ⟨y, u⟩ := q
    simp only [setHostVar] at h
    split at h
    · simpa using h
    · split at h
      · simp only [List.mem_cons] at h ⊢
        exact h.imp id Or.inr
      · simp only [List.mem_cons] at h ⊢
        rcases h with h | h
        · exact .inr (.inl h)
        · exact (ih h).imp id Or.inr

/-- Setting a host variable keeps the list strictly rising. -/
theorem setHostVar_sorted {vars : List (Nat × Word32)} (x : Nat) (v : Word32)
    (h : vars.Pairwise fun p q => p.1 < q.1) : (setHostVar vars x v).Pairwise fun p q => p.1 < q.1 := by
  induction vars with
  | nil => simp [setHostVar]
  | cons q rest ih =>
    obtain ⟨y, u⟩ := q
    obtain ⟨hy, hr⟩ := List.pairwise_cons.mp h
    simp only [setHostVar]
    split
    · next hxy =>
      refine List.pairwise_cons.mpr ⟨fun p hp => ?_, h⟩
      rcases List.mem_cons.mp hp with rfl | hp
      · exact hxy
      · exact lt_trans hxy (hy p hp)
    · split
      · next hxy => subst hxy; exact List.pairwise_cons.mpr ⟨hy, hr⟩
      · next h1 h2 =>
        refine List.pairwise_cons.mpr ⟨fun p hp => ?_, ih hr⟩
        rcases mem_setHostVar hp with rfl | hp
        · exact lt_of_le_of_ne (not_lt.mp h1) (Ne.symm h2)
        · exact hy p hp

end Sys2Proof.Machine
end

