-- ==== Sys2Proof/Laws/PerInstr.lean ====
section
/-!
SUPPORT. Statements about every command as syntax, one lemma per constructor: the encoding of the command decodes to it
and is a well-formed command word.
-/

namespace Sys2Proof.Laws

/-- A well-formed command's word decodes to the command and is well-formed itself (30_encoding.md R81, R82). -/
def RoundTrip.Statement (i : Instr) : Prop :=
  i.wf = true → decode (encode i) = .command i ∧ CommandWord.wf (encode i) = true

theorem RoundTrip.mult : RoundTrip.Statement .mult := fun _ => by decide

theorem RoundTrip.square : RoundTrip.Statement .square := fun _ => by decide

theorem RoundTrip.combine : RoundTrip.Statement .combine := fun _ => by decide

end Sys2Proof.Laws
end

