-- ==== Sys2Proof/Laws/Step.lean ====
section
/-!
SUPPORT. What each agent's move, and so a step, can do: one inversion lemma for the host, one for the engine, one for the
step. Invariants and frames follow from these without unfolding the machine.
-/

namespace Sys2Proof.Machine

open Sys2Proof.Safety

/-! ### The host's turn -/

/-- What one host transaction can do to the state, its own place in the program aside. -/
inductive HostEffect (s : State) : State → Prop where
  /-- A model fault is recorded and nothing else changes. -/
  | faulted (f : Fault) : HostEffect s (raise f s)
  /-- An illegal command word while idle. -/
  | illegal (hb : s.status.busy = false) : HostEffect s (markIllegal s)
  /-- A legal command is issued. -/
  | issued (i : Instr) (hb : s.status.busy = false) (hw : unwrittenOperands i s.written = []) :
      HostEffect s (issue i s)
  /-- A register other than `CMD` is written (for a read-only register this changes nothing). -/
  | wrote (r : RegName) (v : Word32) (hr : r ≠ .cmd) : HostEffect s (writeRegister r v s)
  /-- A reserved offset is written. -/
  | nothing : HostEffect s s
  /-- A read sets a host variable. -/
  | readInto (x : Nat) (v : Word32) : HostEffect s { s with hostVars := setHostVar s.hostVars x v }

theorem hostRead_effect (off size x : Nat) (s : State) : HostEffect s (hostRead off size x s) := by
  obtain ⟨v, _, h⟩ | ⟨f, _, h⟩ := hostRead_cases off size x s <;> rw [h]
  · exact .readInto x v
  · exact .faulted f

theorem memWrite_effect {off size : Nat} {v : Word32} {s t : State} (h : memWrite off size v s = .next t) :
    HostEffect s t := by
  obtain ⟨f, _, rfl⟩ | ⟨_, _, h⟩ | ⟨_, r, hr, _, rfl⟩ | ⟨_, _, rfl⟩ := memWrite_cases h
  · exact .faulted f
  · obtain ⟨_, rfl⟩ | ⟨hb, _, rfl⟩ | ⟨_, i, _, _, rfl⟩ | ⟨hb, i, _, hw, rfl⟩ := commandWrite_cases h
    · exact .faulted _
    · exact .illegal hb
    · exact .faulted _
    · exact .issued i hb hw
  · exact .wrote r v hr
  · exact .nothing

/-- The host's turn: the program is over and nothing changes, or one transaction takes effect with the program moved on
(or left at a WAIT). -/
theorem hostTurn_cases {s t : State} (h : hostTurn s = .next t) :
    (s.hostProgram = [] ∧ t = s) ∨ ∃ rest, HostEffect { s with hostProgram := rest } t := by
  unfold hostTurn at h
  split at h
  · next hp => exact .inl ⟨hp, (Host.Outcome.next.inj h).symm⟩
  · next off size v rest _ => exact .inr ⟨rest, memWrite_effect h⟩
  · next off size x rest _ =>
    obtain rfl := (Host.Outcome.next.inj h).symm
    exact .inr ⟨rest, hostRead_effect off size x _⟩
  · next x rest _ =>
    obtain rfl := (Host.Outcome.next.inj h).symm
    rw [hostWait_eq]
    exact .inr ⟨if s.status.busy then .wait x :: rest else rest, .readInto x (statusWord s.status)⟩

/-! ### The engine's turn -/

/-- What one engine step can do: complete with a `RESULT`, complete with a `MAT_OUT`, or write engine-internal registers
and stay busy. -/
inductive EngineEffect (s : State) : State → Prop where
  /-- No step is enabled. -/
  | none (hp : s.engine.phase = .idle) : EngineEffect s s
  /-- The completion step of MULT or COMBINE. -/
  | wroteResult (v : Word32) (hp : s.engine.phase = .mExec ∨ s.engine.phase = .cCheck ∨ s.engine.phase = .cFinal) :
      EngineEffect s (completeResult v s)
  /-- The completion step of SQUARE. -/
  | wroteMatOut (m : Mat) (hp : s.engine.phase = .sExec) : EngineEffect s (completeMatOut m s)
  /-- A step that completes nothing. -/
  | internal (e : Engine) (hp : s.engine.phase ≠ .idle) (he : e.phase ≠ .idle) : EngineEffect s (setEngine e s)

@[simp] theorem writeAccumulator_phase (acc : Mat) (e : Engine) : (writeAccumulator acc e).phase = e.phase := by
  unfold writeAccumulator; split <;> rfl

/-- A `C_ITER` step stays in `C_ITER` or goes to `C_FINAL`. -/
theorem iterate_phase (e : Engine) (h : e.phase = .cIter) :
    (iterate e).phase = if e.len >>> 1 = 0#64 then .cFinal else .cIter := by
  simp only [iterate]
  split <;> simp [h]

theorem engineStep_effect (s : State) : EngineEffect s (engineStep s) := by
  unfold engineStep
  split
  · next h => exact .none h
  · next h => exact .wroteResult _ (.inl h)
  · next h => exact .wroteMatOut _ h
  · next h =>
    unfold engineCCheck
    split
    · exact .wroteResult _ (.inr (.inl h))
    · exact .internal _ (by simp [h]) (by simp)
  · next h => exact .internal _ (by simp [h]) (by simp)
  · next h => exact .internal _ (by simp [h]) (by simp)
  · next h => exact .internal _ (by simp [h]) (by simp)
  · next h =>
    refine .internal _ (by simp [h]) ?_
    rw [iterate_phase _ h]
    split <;> simp
  · next h => exact .wroteResult _ (.inr (.inr h))

/-! ### A step -/

/-- A step is the host's turn, the engine's, or a reset, as the turns say. -/
theorem step_cases {s t : State} (h : step s = .next t) :
    (nextTurn s = .host ∧ hostTurn (dropTurn s) = .next t) ∨
    (nextTurn s = .engine ∧ t = engineStep (dropTurn s)) ∨
    (nextTurn s = .reset ∧ t = resetBlock (dropTurn s)) := by
  unfold step takeTurn at h
  cases ht : nextTurn s <;> rw [ht] at h
  · exact .inl ⟨rfl, h⟩
  · exact .inr (.inl ⟨rfl, (Host.Outcome.next.inj h).symm⟩)
  · exact .inr (.inr ⟨rfl, (Host.Outcome.next.inj h).symm⟩)

/-- Every step answers a next state: a model fault is a next state too (60_exceptions.md R200). -/
theorem step_next (s : State) : ∃ t, step s = .next t := by
  unfold step takeTurn
  split
  · exact hostTurn_next _
  · exact ⟨_, rfl⟩
  · exact ⟨_, rfl⟩

/-- The operands of a command are all written exactly when none is listed as unwritten. -/
theorem unwrittenOperands_eq_nil (i : Instr) (w : Written) :
    unwrittenOperands i w = [] ↔ OperandsWritten i w := by
  cases i <;>
    simp [unwrittenOperands, unwrittenForMult, unwrittenForSquare, unwrittenForCombine, unwrittenOf_eq_nil,
      matInFlags, OperandsWritten]

end Sys2Proof.Machine
end

