-- ==== Sys2Proof/Tests/Slice0.lean ====
section
/-!
SUPPORT. Tests of the model against the spec's own examples (95_test_vectors.md; the vector is named at each test), the
smoke tests of the well-formedness checks, and for every statement with hypotheses a witness that meets them.
-/

namespace Sys2Proof.Tests

open Sys2Proof.Machine Sys2Proof.Safety

/-! ## Helpers -/

/-- The next state of an outcome, if it is one. -/
def nextOf : Host.Outcome State Fault Refusal → Option State
  | .next s => some s
  | .fault _ => none
  | .refused _ => none

/-- Every operand register written: the operands of V-C4, and `MAT_IN = BOOT`, `VEC = FFFFFFFF` as in P1. -/
def ready : State :=
  { State.reset with
    operands :=
      { crcA := 0x3610A686#32, crcB := 0x3A771143#32, lenLo := 5#32, lenHi := 0#32, vec := 0xFFFFFFFF#32,
        matIn := boot }
    written :=
      { crcA := true, crcB := true, lenLo := true, lenHi := true, vec := true,
        matIn := Vector.replicate 32 true } }

/-- The state after one command write. -/
def issued (i : Instr) : State := issue i ready

/-- `ready` with the host about to perform one transaction. -/
def hostAt (op : HostOp) (s : State) : State := { s with hostProgram := [op], turns := [.host] }

/-- An engine in phase `p` on the operands of V-C4. -/
def inPhase (p : Phase) : State := setPhase p (issued .combine)

/-- A matrix whose first words are listed and whose other words are `1 << (n - k)`, `k` the number listed. -/
def shiftedMat (first : List Word32) : Mat :=
  Vector.ofFn fun n => first.getD n.val (1#32 <<< (n.val - first.length))

/-- `M2` of 95_test_vectors.md §2.1. -/
def m2 : Mat := shiftedMat [0x76DC4190#32, 0xEDB88320#32]

/-- `M4` of 95_test_vectors.md §2.1. -/
def m4 : Mat := shiftedMat [0x1DB71064#32, 0x3B6E20C8#32, 0x76DC4190#32, 0xEDB88320#32]

/-- The engine of the V-C4 trace before its first loop iteration: `E_ODD = M4`, `E_SEL = EVEN`. -/
def atLoop : State :=
  setEngine { (issued .combine).engine with odd := m4, phase := .cIter } (issued .combine)

/-! ## Decoding: words written out from 30_encoding.md R80, R81 (RSVD in bits 31:4, OPC in bits 3:0) -/

theorem test_decode_mult : decode 0b00000000000000000000000000000001#32 = .command .mult := by decide

theorem test_decode_square : decode 0b00000000000000000000000000000010#32 = .command .square := by decide

theorem test_decode_combine : decode 0b00000000000000000000000000000011#32 = .command .combine := by decide

theorem test_decode_opcode_zero : decode 0b00000000000000000000000000000000#32 = .illegal .unassignedOpcode := by
  decide

theorem test_decode_opcode_four : decode 0b00000000000000000000000000000100#32 = .illegal .unassignedOpcode := by
  decide

/-- P5: 00000013 has COMBINE's opcode and reserved bit 4 set. -/
theorem test_decode_reserved_low : decode 0b00000000000000000000000000010011#32 = .illegal .reservedBits := by
  decide

/-- V-I4: 80000001 has MULT's opcode and reserved bit 31 set. -/
theorem test_decode_reserved_high : decode 0b10000000000000000000000000000001#32 = .illegal .reservedBits := by
  decide

theorem test_decodeTableWord :
    decodeTableWord 32 1 = some .mult ∧ decodeTableWord 32 2 = some .square ∧
    decodeTableWord 32 3 = some .combine ∧ decodeTableWord 32 4 = none ∧ decodeTableWord 8 3 = some .combine := by
  decide

/-! ## Well-formedness: an ill-formed term for each check -/

theorem test_wf_commands : Instr.wf .mult = true ∧ Instr.wf .square = true ∧ Instr.wf .combine = true := by decide

theorem test_wf_reserved_refused : CommandWord.reservedZero 0x00000013#32 = false := by decide

theorem test_wf_opcode_refused :
    CommandWord.opcodeAssigned 0x00000000#32 = false ∧ CommandWord.opcodeAssigned 0x00000004#32 = false := by decide

theorem test_wf_word : CommandWord.wf 0x00000013#32 = false ∧ CommandWord.wf 0x00000003#32 = true := by decide

theorem test_wf_aligned_refused :
    HostAccess.aligned 0x008 2 = false ∧ HostAccess.aligned 0x002 4 = false := by decide

theorem test_wf_window_refused : HostAccess.inWindow 0x200 = false := by decide

theorem test_wf_access :
    HostAccess.wf 0x201 4 = false ∧ HostAccess.wf 0x200 4 = false ∧ HostAccess.wf 0x1FC 4 = true := by decide

theorem test_wf_transaction :
    HostOp.wf (.wr 0x008 2 (.imm 0#32)) = false ∧ HostOp.wf (.rd 0x200 4 0) = false ∧
    HostOp.wf (.wait 0) = true := by decide

/-! ## MULT, SQUARE, COMBINE -/

/-- P1, V-M2: BOOT × FFFFFFFF, status 00000002 afterwards. -/
theorem test_mult_boot :
    (engineStep (issued .mult)).results.result = 0x92477CDF#32 ∧
    memRead 0x004 4 (engineStep (issued .mult)) = .value 0x00000002#32 := by decide +kernel

/-- V-M5: `R[n] = 01010101 · (n+1)`, the last word is used for bit 31. -/
theorem test_mult_words :
    gf2Mult (Vector.ofFn fun n => 0x01010101#32 * BitVec.ofNat 32 (n.val + 1)) 0x80000000#32 = 0x20202020#32 ∧
    gf2Mult (Vector.ofFn fun n => 0x01010101#32 * BitVec.ofNat 32 (n.val + 1)) 0x12345678#32 = 0x14141414#32 := by
  decide +kernel

/-- V-S3 and the worked example of R138: the in-place square would give 76DC4190 for word 1. -/
theorem test_square_boot : (engineStep (issued .square)).results.matOut = m2 := by decide +kernel

/-- V-S9: a non-trivial matrix whose square is zero. -/
theorem test_square_nilpotent :
    gf2Square (Vector.ofFn fun n => 0x01010101#32 * BitVec.ofNat 32 (n.val + 1)) = zeroMat := by decide +kernel

/-- V-C4, step 5 of the trace: `E_EVEN = M8`, applied. -/
theorem test_combine_loop_step :
    (engineStep atLoop).engine.even[0] = 0x77073096#32 ∧ (engineStep atLoop).engine.crc = 0x04ED36B3#32 ∧
    (engineStep atLoop).engine.len = 2#64 ∧ (engineStep atLoop).engine.sel = .odd ∧
    (engineStep atLoop).engine.phase = .cIter := by decide +kernel

/-- V-C4, V-C2 and V-C9: the overwrite reading of C2, the degenerate case, a clear bit 0. -/
theorem test_combine_value :
    combine 0x3610A686#32 0x3A771143#32 5#64 = 0xF9EB20AD#32 ∧
    combine 0x12345678#32 0xDEADBEEF#32 0#64 = 0x12345678#32 ∧
    combine 0xFFFFFFFF#32 0#32 2#64 = 0xBE26ED00#32 := by decide +kernel

/-! ## Command writes and status (95_test_vectors.md §2.5) -/

/-- V-I2: BUSY right after issue. -/
theorem test_issue_status : memRead 0x004 4 (issued .combine) = .value 0x00000001#32 := by decide

/-- V-I4, P5: an illegal word sets ILLEGAL and nothing runs. -/
theorem test_illegal_word :
    (nextOf (step (hostAt (wrReg .cmd 0x00000013#32) ready))).map (fun s => (s.status, s.engine.phase, s.faults)) =
      some ({ busy := false, done := false, illegal := true }, .idle, []) := by decide

/-- V-I7: CMD and reserved offsets read as 0. -/
theorem test_reads_zero :
    memRead 0x000 4 ready = .value 0#32 ∧ memRead 0x020 4 ready = .value 0#32 ∧
    memRead 0x07C 4 ready = .value 0#32 ∧ memRead 0x180 4 ready = .value 0#32 ∧
    memRead 0x1FC 4 ready = .value 0#32 := by decide

/-- V-I11: an operand register reads back; and the last word of MAT_IN lies at 0x0FC. -/
theorem test_read_back :
    (nextOf (memWrite 0x008 4 0xDEADBEEF#32 State.reset)).map (memRead 0x008 4) = some (.value 0xDEADBEEF#32) ∧
    (nextOf (memWrite 0x0FC 4 0xDEADBEEF#32 State.reset)).map (fun s => (s.operands.matIn[31], s.written.matIn[31]))
      = some (0xDEADBEEF#32, true) := by decide

/-- V-I12: STATUS, CRC_A and MAT_IN[n] can be read while busy. -/
theorem test_reads_while_busy :
    memRead 0x004 4 (issued .mult) = .value 1#32 ∧ memRead 0x008 4 (issued .mult) = .value 0x3610A686#32 ∧
    memRead 0x080 4 (issued .mult) = .value 0xEDB88320#32 := by decide

/-! ## Model faults (95_test_vectors.md §2.6) -/

/-- V-F1, V-F3, V-F4: alignment is checked before the window. -/
theorem test_access_faults :
    memRead 0x002 4 State.reset = .fault (.badAccess 0x002 4) ∧
    memRead 0x201 4 State.reset = .fault (.badAccess 0x201 4) ∧
    memRead 0x200 4 State.reset = .fault (.outOfWindow 0x200) := by decide

/-- V-F2: a 2-byte write. -/
theorem test_narrow_write :
    (nextOf (step (hostAt (.wr 0x008 2 (.imm 0x1234#32)) State.reset))).map (fun s => (s.faults, s.written.crcA)) =
      some ([.badAccess 0x008 2], false) := by decide

/-- V-F5, V-F6: a command write while busy, legal or not. -/
theorem test_cmd_while_busy :
    (nextOf (commandWrite 3#32 (issued .combine))).map State.faults = some [.cmdWhileBusy 3#32] ∧
    (nextOf (commandWrite 0#32 (issued .combine))).map (fun s => (s.faults, s.status.illegal)) =
      some ([.cmdWhileBusy 0#32], false) := by decide

/-- V-F7 to V-F10. -/
theorem test_output_faults :
    memRead 0x01C 4 (issued .combine) = .fault (.outputReadWhileBusy 0x01C) ∧
    memRead 0x008 4 State.reset = .fault (.unwrittenRead 0x008) ∧
    memRead 0x01C 4 State.reset = .fault (.unwrittenRead 0x01C) ∧
    memRead 0x100 4 (engineStep (issued .mult)) = .fault (.unwrittenRead 0x100) := by decide

/-- V-F11: CRC_B never written, although the length is 0. -/
theorem test_unwritten_combine :
    (nextOf (exec .combine
      { State.reset with written := { Written.reset with crcA := true, lenLo := true, lenHi := true } })).map
        (fun s => (s.faults, s.status.busy)) = some ([.unwrittenOperand .combine [.crcB]], false) := by decide

/-- V-F12: MAT_IN[31] never written. -/
theorem test_unwritten_mult :
    (nextOf (exec .mult { ready with written := { ready.written with matIn := ready.written.matIn.set 31 false } })).map
      State.faults = some [.unwrittenOperand .mult [.matIn 31]] := by decide

/-- 30_encoding.md R87: a write of a variable writes what the last read into it returned (P4). -/
theorem test_write_variable :
    (nextOf (hostTurn { ready with
      hostProgram := [.wr 0x008 4 (.var 1)], hostVars := [(1, 0x5003699F#32)] })).map (fun s => s.operands.crcA) =
      some 0x5003699F#32 := by decide

/-- 70_reset_and_hazards.md R231: reset during a command. -/
theorem test_reset_while_busy :
    (nextOf (step { issued .mult with turns := [.reset] })).map
      (fun s => (s.status.busy, s.engine.phase, s.valid.result, s.written.vec, s.faults)) =
      some (false, .idle, false, false, []) := by decide

/-- The placed command is the first to run after reset; with no operand written it is turned away (R103). -/
theorem test_first_after_reset :
    (nextOf (step (State.reset.withFetchWord 32 3))).map State.faults =
      some [.unwrittenOperand .combine [.crcA, .crcB, .lenLo, .lenHi]] := by decide

/-! ## Witnesses: concrete cases that meet the hypotheses of each statement, one for each clause -/

theorem witness_DecodeFollowsTheFields :
    (0x00000010#32).extractLsb' 4 28 ≠ 0#28 ∧ (0x80000000#32).extractLsb' 4 28 ≠ 0#28 ∧
    (0x0000000F#32).extractLsb' 4 28 = 0#28 ∧ (0x00000001#32).extractLsb' 0 4 = 1#4 ∧
    (0x00000002#32).extractLsb' 0 4 = 2#4 ∧ (0x00000003#32).extractLsb' 0 4 = 3#4 ∧
    (0x00000004#32).extractLsb' 0 4 ≠ 1#4 ∧ (0x00000004#32).extractLsb' 0 4 ≠ 2#4 ∧
    (0x00000004#32).extractLsb' 0 4 ≠ 3#4 := by decide

theorem witness_RegisterMapRoundTrip :
    regAt 0x0FC = some (.matIn 31) ∧ regAt 0x17C = some (.matOut 31) ∧ regAt 0x080 = some (.matIn 0) ∧
    regAt 0x100 = some (.matOut 0) ∧ regAt 0x020 = none ∧ regAt 0x07C = none ∧ regAt 0x180 = none ∧
    regAt 0x1FC = none ∧ 0x17C % 4 = 0 ∧ 0x1FC % 4 = 0 := by decide

/-- Both clauses: a 2-byte access at an aligned offset, and a 4-byte access at offset 2. -/
theorem witness_BadAccessChangesOnlyTheRecord : (2 ≠ 4 ∨ 8 % 4 ≠ 0) ∧ (4 ≠ 4 ∨ 2 % 4 ≠ 0) := by decide

theorem witness_OutOfWindowChangesOnlyTheRecord : 0x200 % 4 = 0 ∧ 0x200 ≤ 0x200 := by decide

/-- The four ends of the two reserved ranges; also for the clauses of ReadFunction and WriteFunction. -/
theorem witness_ReservedOffsets :
    (0x020 % 4 = 0 ∧ 0x020 ≤ 0x020 ∧ 0x020 ≤ 0x07C) ∧ (0x07C % 4 = 0 ∧ 0x020 ≤ 0x07C ∧ 0x07C ≤ 0x07C) ∧
    (0x180 % 4 = 0 ∧ 0x180 ≤ 0x180 ∧ 0x180 ≤ 0x1FC) ∧ (0x1FC % 4 = 0 ∧ 0x180 ≤ 0x1FC ∧ 0x1FC ≤ 0x1FC) := by
  decide

theorem witness_ReadFunction :
    memRead 0x008 4 ready = .value 0x3610A686#32 ∧ memRead 0x008 4 State.reset = .fault (.unwrittenRead 0x008) := by
  decide

theorem witness_OperandRegisterReadsBack : isOperand .crcA = true ∧ isOperand (.matIn 31) = true := by decide

theorem witness_SideEffectsOfAccesses :
    regAt 0x008 ≠ some .cmd ∧
    (nextOf (memWrite 0x008 4 1#32 State.reset)).isSome = true ∧
    (nextOf (memWrite (regOffset (.matIn 31)) 4 1#32 State.reset)).isSome = true ∧ isOperand (.matIn 31) = true := by
  decide

theorem witness_CommandWriteWhileBusyIsOnlyRecorded :
    (issued .mult).status.busy = true ∧ ready.status.busy = false ∧
    -- the third clause: a write that issues keeps the record, one that faults adds to it
    (nextOf (memWrite 0x000 4 1#32 ready)).map State.faults = some ready.faults ∧
    (nextOf (memWrite 0x000 4 1#32 State.reset)).map (fun t => decide (t.faults = [])) = some false := by
  decide

theorem witness_IllegalWordOnlyMarksStatus :
    ready.status.busy = false ∧ 0x00000004#32 ≠ 0x00000001#32 ∧ 0x00000004#32 ≠ 0x00000002#32 ∧
    0x00000004#32 ≠ 0x00000003#32 := by decide

theorem witness_UnwrittenOperandTurnsCommandAway :
    State.reset.status.busy = false ∧ ¬OperandsWritten .mult State.reset.written ∧
    ¬OperandsWritten .square State.reset.written ∧ ¬OperandsWritten .combine State.reset.written := by
  simp only [OperandsWritten]; decide

/-- Also the hypotheses of MultWritesTheProduct, SquareWritesTheSquare and CombineWritesCombine. -/
theorem witness_LegalCommandIsIssued :
    ready.status.busy = false ∧ OperandsWritten .mult ready.written ∧ OperandsWritten .square ready.written ∧
    OperandsWritten .combine ready.written := by
  simp only [OperandsWritten]; decide

theorem witness_CommandWriteFrame :
    exec .mult ready = .next (issued .mult) ∧ exec .square ready = .next (issued .square) ∧
    exec .combine ready = .next (issued .combine) ∧ regAt 0x008 ≠ some .status ∧ regAt 0x008 ≠ some .result ∧
    ∀ n, regAt 0x008 ≠ some (.matOut n) := by
  refine ⟨?_, ?_, ?_, by decide, by decide, by decide⟩ <;>
    rw [exec_eq, issueCommand, if_neg (by decide), if_neg (by decide)] <;> rfl

theorem witness_EngineStepTouchesOnlyTheEngine :
    (issued .combine).engine.phase ≠ .idle ∧ (engineStep (issued .combine)).engine.phase ≠ .idle ∧
    (issued .combine).engine = (hostAt (.wait 0) (issued .combine)).engine := by decide

/-- A completion of each kind, and a step that completes nothing. -/
theorem witness_CompletionIsOneStep :
    (issued .square).engine.phase = .sExec ∧ (engineStep (issued .square)).engine.phase = .idle ∧
    (issued .mult).engine.phase ≠ .sExec ∧ (engineStep (issued .mult)).engine.phase = .idle ∧
    (issued .combine).engine.phase ≠ .idle ∧ (engineStep (issued .combine)).engine.phase ≠ .idle := by
  decide +kernel

theorem witness_MatrixEngineSteps :
    (issued .mult).engine.phase = .mExec ∧ (issued .square).engine.phase = .sExec := by decide

/-- `pow(BOOT, 2) = M2`, one power at a time. -/
theorem matPow_boot_two : matPow boot 2 = m2 := by
  have h1 : matPow boot 1 = boot := by decide +kernel
  change (Vector.ofFn fun n => gf2Mult boot (matPow boot 1)[n]) = m2
  rw [h1]; decide +kernel

/-- `pow(BOOT, 4) = M4`, one power at a time. -/
theorem matPow_boot_four : matPow boot 4 = m4 := by
  have h3 : matPow boot 3 = shiftedMat [0x3B6E20C8#32, 0x76DC4190#32, 0xEDB88320#32] := by
    change (Vector.ofFn fun n => gf2Mult boot (matPow boot 2)[n]) = _
    rw [matPow_boot_two]; decide +kernel
  change (Vector.ofFn fun n => gf2Mult boot (matPow boot 3)[n]) = m4
  rw [h3]; decide +kernel

/-- Every clause of CombineSetupSteps and CombineFinalStep; the length 0 for the first. -/
theorem witness_CombineSetupSteps :
    (setEngine { State.reset.engine with phase := .cCheck } State.reset).engine.phase = .cCheck ∧
    (setEngine { State.reset.engine with phase := .cCheck } State.reset).engine.len = 0#64 ∧
    (issued .combine).engine.phase = .cCheck ∧ (issued .combine).engine.len ≠ 0#64 ∧
    (inPhase .cBoot).engine.phase = .cBoot ∧ (inPhase .cSq1).engine.phase = .cSq1 ∧
    (inPhase .cSq2).engine.phase = .cSq2 ∧ (inPhase .cFinal).engine.phase = .cFinal := by decide

/-- The powers of CombineSetupSteps: what C_BOOT leaves for C_SQ1, and C_SQ1 for C_SQ2. -/
theorem witness_CombineSetupSteps_powers :
    (engineStep (inPhase .cBoot)).engine.phase = .cSq1 ∧ (engineStep (inPhase .cBoot)).engine.odd = boot ∧
    (engineStep (engineStep (inPhase .cBoot))).engine.phase = .cSq2 ∧
    (engineStep (engineStep (inPhase .cBoot))).engine.even = matPow boot 2 := by
  refine ⟨by decide, by decide, by decide, ?_⟩
  rw [matPow_boot_two]; decide +kernel

theorem witness_CombineLoopStep :
    atLoop.engine.phase = .cIter ∧ atLoop.engine.sel = .even ∧ (engineStep atLoop).engine.phase = .cIter ∧
    (engineStep atLoop).engine.sel = .odd := by decide +kernel

/-- The bounds of MultEqualsBothXorForms, and the ends of the word ranges of BootAdvancesOneZeroBit and
MatrixCornerCases. -/
theorem witness_matrix_words :
    32 ≤ 32 ∧ 1 ≤ (1 : Fin 32).val ∧ 1 ≤ (31 : Fin 32).val ∧ 2 ≤ (2 : Fin 32).val ∧ 2 ≤ (31 : Fin 32).val := by decide

/-- Lengths 1 and 2^64 - 1, the ends of the range. -/
theorem witness_CombineClosedForm : 1#64 ≠ 0#64 ∧ 0xFFFFFFFFFFFFFFFF#64 ≠ 0#64 := by decide

theorem witness_CombineLoopEndsWithin64 : 64 ≤ 64 := by decide

theorem witness_CombineIsChunkAssociative :
    1#64 ≠ 0#64 ∧ 0xFFFFFFFFFFFFFFFE#64 ≠ 0#64 ∧ (1#64).toNat + (0xFFFFFFFFFFFFFFFE#64).toNat < 2 ^ 64 := by decide

/-- Also the hypotheses of EngineStepCounts: bit length 3, as in V-C4. -/
theorem witness_CombineLoopInvariant :
    (issued .combine).engine.phase = .cCheck ∧ (issued .combine).engine.len ≠ 0#64 ∧
    bitLength (issued .combine).engine.len = 3 ∧
    (setEngine { State.reset.engine with phase := .cCheck } State.reset).engine.len = 0#64 ∧
    2 ^ 63 ≤ (0x8000000000000000#64).toNat := by decide

theorem witness_StepRunsTheDecodedCommand :
    nextTurn (hostAt (wrReg .cmd 2#32) ready) = .host ∧
    (hostAt (wrReg .cmd 2#32) ready).hostProgram = [.wr 0x000 4 (.imm 2#32)] ∧
    decode (hostValue [] (.imm 2#32)) = .command .square := by decide

theorem witness_PlacedCommandRunsNext : decodeTableWord 32 3 = some .combine := by decide

/-- `ready` with the turns listed. -/
def withTurns (ts : List Turn) : State := { ready with turns := ts }

/-- One state for each command, with its turns: host turns among the 8 engine steps of V-C4 for COMBINE, one before the
one step of MULT, none before that of SQUARE; turns left over after MULT's. -/
theorem witness_ResultIndependentOfInterleaving :
    let ts : List Turn := [.host, .engine, .engine, .host, .engine, .engine, .engine, .engine, .engine]
    ((withTurns (ts ++ .engine :: [])).status.busy = false ∧
      OperandsWritten .combine (withTurns (ts ++ .engine :: [])).written ∧
      (withTurns (ts ++ .engine :: [])).turns = ts ++ .engine :: [] ∧ (∀ x ∈ ts, x ≠ .reset) ∧
      ts.count .engine + 1 = commandSteps .combine (withTurns (ts ++ .engine :: [])).operands ∧
      ∃ t, exec .combine (withTurns (ts ++ .engine :: [])) = .next t) ∧
    ((withTurns ([.host] ++ .engine :: [.reset])).status.busy = false ∧
      OperandsWritten .mult (withTurns ([.host] ++ .engine :: [.reset])).written ∧
      (withTurns ([.host] ++ .engine :: [.reset])).turns = [.host] ++ .engine :: [.reset] ∧
      (∀ x ∈ ([.host] : List Turn), x ≠ .reset) ∧
      ([.host] : List Turn).count .engine + 1 = commandSteps .mult ready.operands ∧
      ∃ t, exec .mult (withTurns ([.host] ++ .engine :: [.reset])) = .next t) ∧
    ((withTurns ([] ++ .engine :: [])).status.busy = false ∧
      OperandsWritten .square (withTurns ([] ++ .engine :: [])).written ∧
      (withTurns ([] ++ .engine :: [])).turns = [] ++ .engine :: [] ∧ (∀ x ∈ ([] : List Turn), x ≠ .reset) ∧
      ([] : List Turn).count .engine + 1 = commandSteps .square ready.operands ∧
      ∃ t, exec .square (withTurns ([] ++ .engine :: [])) = .next t) := by
  simp only [OperandsWritten]
  refine ⟨⟨?_, ?_, rfl, ?_, ?_, _, rfl⟩, ⟨?_, ?_, rfl, ?_, ?_, _, rfl⟩, ?_, ?_, rfl, ?_, ?_, _, rfl⟩ <;> decide

theorem witness_HostCannotDisturbABusyEngine :
    (issued .combine).status.busy = true ∧ isOperand .vec = true ∧
    isWritten (issued .combine).written .vec = true ∧
    (nextOf (hostTurn (hostAt (wrReg .vec 0#32) (issued .combine)))).isSome = true := by decide

/-- The invariant of a busy state, in the loop: `E_ODD = pow(BOOT, 4)` before iteration 0; also the hypothesis of
StatusReadsOneOfFourWords. -/
theorem witness_invariants : StatusInv atLoop ∧ AccumulatorInv atLoop ∧ HostVarsSorted atLoop := by
  refine ⟨by decide, ⟨by decide, 0, by decide, by decide, by decide, ?_⟩, by decide⟩
  rw [show 2 ^ (0 + 2) = 4 from rfl, matPow_boot_four]
  rfl

/-- Every state has a next one: the hypothesis `step s = .next t` of the statements about steps, for a host, an engine and
a reset turn. -/
theorem witness_step :
    (∃ t, nextTurn (hostAt (wrReg .vec 0#32) ready) = .host ∧ step (hostAt (wrReg .vec 0#32) ready) = .next t) ∧
    (∃ t, nextTurn (issued .combine) = .engine ∧ step (issued .combine) = .next t) ∧
    ∃ t, nextTurn { ready with turns := [.reset] } = .reset ∧ step { ready with turns := [.reset] } = .next t := by
  refine ⟨?_, ?_, ?_⟩
  · obtain ⟨t, ht⟩ := step_next (hostAt (wrReg .vec 0#32) ready)
    exact ⟨t, by decide, ht⟩
  · obtain ⟨t, ht⟩ := step_next (issued .combine)
    exact ⟨t, by decide, ht⟩
  · obtain ⟨t, ht⟩ := step_next { ready with turns := [.reset] }
    exact ⟨t, by decide, ht⟩

theorem witness_FaultRecordIsSticky : (raise (.outOfWindow 0x200) ready).faults ≠ [] := by decide

/-- Two states after reset that differ in an unspecified register. -/
theorem witness_UnspecifiedResetValuesAreInvisible :
    AfterReset State.reset ∧
    AfterReset { State.reset with operands := { Operands.reset with crcA := 1#32 } } ∧
    HostEquiv State.reset { State.reset with operands := { Operands.reset with crcA := 1#32 } } := by
  refine ⟨?_, ?_, ?_⟩ <;> constructor <;> first | rfl | decide | (constructor <;> first | rfl | trivial)

/-- Outputs that change, at an engine turn of each kind. -/
theorem witness_OutputsChangeOnlyAtCompletion :
    (engineStep (issued .mult)).results.result ≠ (issued .mult).results.result ∧
    (engineStep (issued .square)).results.matOut ≠ (issued .square).results.matOut := by decide +kernel

theorem witness_EngineReachesIdleWhenTurnsRunOut :
    (issued .combine).turns = [] ∧ (issued .combine).engine.phase ≠ .idle := by decide

theorem witness_FinalStateStays :
    Final { ready with turns := [.engine, .host] } ∧ ∀ x ∈ ([.engine, .host] : List Turn), x ≠ .reset := by decide

theorem witness_WaitPollsUntilNotBusy :
    (hostAt (.wait 0) (issued .mult)).hostProgram = [.wait 0] ∧
    (hostAt (.wait 0) (issued .mult)).status.busy = true ∧ (hostAt (.wait 0) ready).status.busy = false := by decide

theorem witness_CpMatCopiesTheSquare :
    let s : State :=
      { ready with hostProgram := txCpMat 0, turns := List.replicate 64 .host, valid := { ready.valid with matOut := true } }
    s.hostProgram = txCpMat 0 ++ [] ∧ s.turns = List.replicate 64 .host ++ [] ∧ s.status.busy = false ∧
      s.valid.matOut = true := by
  refine ⟨by simp, by simp, rfl, rfl⟩

end Sys2Proof.Tests
end

/-! ## Proofs: what each part of the state does from step to step (10_state.md)

The frame of each agent's move, the engine's completions, the written flags, the status invariant, and the relation of the
states no host can tell apart. -/

namespace Sys2Proof.Machine

open Sys2Proof.Safety

/-! ### The register map -/

/-- The word at an aligned offset of a 32-word block lies at that offset. -/
theorem offset_of_wordIndex {base off : Nat} {n : Fin 32} (haligned : (off - base) % 4 = 0)
    (h : wordIndex base off = some n) : base + 4 * n.val = off := by
  unfold wordIndex at h
  split at h
  · obtain rfl := Option.some.inj h
    dsimp only
    omega
  · cases h

/-- The register found at an aligned offset lies there: the converse of `regAt_regOffset` (20_memory.md R51). -/
theorem regOffset_of_regAt {off : Nat} {r : RegName} (haligned : off % 4 = 0) (h : regAt off = some r) :
    regOffset r = off := by
  unfold regAt at h
  split_ifs at h
  case neg =>
    split at h
    · next n hn =>
      obtain rfl := Option.some.inj h
      exact offset_of_wordIndex (by omega) hn
    · obtain ⟨n, hn, rfl⟩ := Option.map_eq_some_iff.mp h
      exact offset_of_wordIndex (by omega) hn
  all_goals
    obtain rfl := Option.some.inj h
    simp only [regOffset, *]

/-! ### Frames of a turn -/

theorem HostEffect.valid_eq {s t : State} (h : HostEffect s t) : t.valid = s.valid := by
  cases h <;> simp

theorem HostEffect.results_eq {s t : State} (h : HostEffect s t) : t.results = s.results := by
  cases h <;> simp

/-- A host's turn writes no output and no valid flag (10_state.md R30, R32, R40). -/
theorem hostTurn_keeps_outputs {s t : State} (h : hostTurn s = .next t) :
    t.valid = s.valid ∧ t.results = s.results := by
  obtain ⟨_, rfl⟩ | ⟨_, heff⟩ := hostTurn_cases h
  · exact ⟨rfl, rfl⟩
  · exact ⟨heff.valid_eq, heff.results_eq⟩

theorem EngineEffect.written_eq {s t : State} (h : EngineEffect s t) : t.written = s.written := by
  cases h <;> simp

/-- An engine step completes with `RESULT`, completes with `MAT_OUT`, or writes engine-internal registers only; the state
says which. -/
theorem engineStep_completes (s : State) :
    (CompletesWithResult s.engine ∧ s.engine.phase ≠ .sExec ∧ ∃ v, engineStep s = completeResult v s) ∨
    (¬CompletesWithResult s.engine ∧ s.engine.phase = .sExec ∧ ∃ m, engineStep s = completeMatOut m s) ∨
    (¬CompletesWithResult s.engine ∧ s.engine.phase ≠ .sExec ∧ ∃ e, engineStep s = setEngine e s) := by
  unfold engineStep
  cases hp : s.engine.phase <;> simp only [CompletesWithResult, hp]
  case mExec | cFinal => exact .inl ⟨by simp, by simp, _, rfl⟩
  case sExec => exact .inr (.inl ⟨by simp, trivial, _, rfl⟩)
  case cCheck =>
    unfold engineCCheck
    split
    · next hlen => exact .inl ⟨by simp [hlen], by simp, _, rfl⟩
    · next hlen => exact .inr (.inr ⟨by simp [hlen], by simp, _, rfl⟩)
  all_goals exact .inr (.inr ⟨by simp, by simp, _, rfl⟩)

/-! ### The status invariant -/

/-- The invariant speaks of the status bits and the phase alone. -/
theorem statusInv_of_eq {s t : State} (hstatus : t.status = s.status) (hphase : t.engine.phase = s.engine.phase)
    (h : StatusInv s) : StatusInv t := by
  simpa only [StatusInv, hstatus, hphase] using h

theorem startPhase_ne_idle (i : Instr) : startPhase i ≠ .idle := by
  cases i <;> simp [startPhase]

theorem HostEffect.statusInv {s t : State} (heff : HostEffect s t) (h : StatusInv s) : StatusInv t := by
  cases heff with
  | faulted f => exact statusInv_of_eq rfl rfl h
  | illegal hb =>
    obtain ⟨hbusy, -⟩ := h
    simpa [StatusInv, illegalStatus, hb] using hbusy
  | issued i hb hw => simp [StatusInv, issueStatus, startPhase_ne_idle]
  | wrote r v hr => exact statusInv_of_eq (by simp) (by simp) h
  | nothing => exact h
  | readInto x v => exact statusInv_of_eq rfl rfl h

theorem EngineEffect.statusInv {s t : State} (heff : EngineEffect s t) (h : StatusInv s) : StatusInv t := by
  have hlegal (hidle : s.engine.phase ≠ .idle) : s.status.illegal = false := by
    obtain ⟨hbusy, _, hnotIllegal, _⟩ := h
    simpa [hbusy.mpr hidle] using hnotIllegal
  cases heff with
  | none hp => exact h
  | wroteResult v hp =>
    have : s.engine.phase ≠ .idle := by rcases hp with hp | hp | hp <;> simp [hp]
    simp [StatusInv, completeStatus, hlegal this]
  | wroteMatOut m hp => simp [StatusInv, completeStatus, hlegal, hp]
  | internal e hp he =>
    have hbusy : s.status.busy = true := h.1.mpr hp
    simpa [StatusInv, he, hp, hbusy] using h

theorem hostTurn_statusInv {s t : State} (h : StatusInv s) (hstep : hostTurn s = .next t) : StatusInv t := by
  obtain ⟨_, rfl⟩ | ⟨_, heff⟩ := hostTurn_cases hstep
  · exact h
  · exact heff.statusInv h

/-- Settles O43: the host's effects, the engine's and a reset each keep the invariant. -/
theorem statusInvKeptByEveryStep : Obligations.StatusInvKeptByEveryStep := by
  intro s t h hstep
  have hdrop : StatusInv (dropTurn s) := h
  obtain ⟨_, hhost⟩ | ⟨_, rfl⟩ | ⟨_, rfl⟩ := step_cases hstep
  · exact hostTurn_statusInv hdrop hhost
  · exact (engineStep_effect _).statusInv hdrop
  · simp [StatusInv, Status.reset, Engine.reset]

/-- At most one status bit is set: none, BUSY, DONE or ILLEGAL. -/
theorem status_eq_of_exclusive_bits : ∀ st : Status, ¬(st.busy = true ∧ st.done = true) →
    ¬(st.busy = true ∧ st.illegal = true) → ¬(st.done = true ∧ st.illegal = true) →
    st = ⟨false, false, false⟩ ∨ st = ⟨true, false, false⟩ ∨ st = ⟨false, true, false⟩ ∨ st = ⟨false, false, true⟩ := by
  rintro ⟨busy, done, illegal⟩
  revert busy done illegal
  decide

/-- Settles O47: under the invariant there are four values of the status, with a word each. -/
theorem statusReadsOneOfFourWords : Obligations.StatusReadsOneOfFourWords := by
  intro s ⟨_, hbd, hbi, hdi⟩
  have hread : memRead 0x004 4 s = .value (statusWord s.status) := memRead_regOffset .status s
  rw [hread]
  obtain hst | hst | hst | hst := status_eq_of_exclusive_bits s.status hbd hbi hdi <;> rw [hst]
  · exact .inl rfl
  · exact .inr (.inl rfl)
  · exact .inr (.inr (.inl rfl))
  · exact .inr (.inr (.inr rfl))

/-! ### Outputs and their valid flags -/

/-- An engine step sets the valid flag of what it completes with and clears none (10_state.md R40). -/
theorem engineStep_valid (s : State) :
    ((engineStep s).valid.result = true ↔ s.valid.result = true ∨ CompletesWithResult s.engine) ∧
    ((engineStep s).valid.matOut = true ↔ s.valid.matOut = true ∨ s.engine.phase = .sExec) := by
  obtain ⟨hres, hmat, _, h⟩ | ⟨hres, hmat, _, h⟩ | ⟨hres, hmat, _, h⟩ := engineStep_completes s <;>
    simp [h, hres, hmat]

/-- An engine step changes no output but the one it completes with (10_state.md R30, R32). -/
theorem engineStep_results (s : State) :
    ((engineStep s).results.result ≠ s.results.result → CompletesWithResult s.engine) ∧
    ((engineStep s).results.matOut ≠ s.results.matOut → s.engine.phase = .sExec) := by
  obtain ⟨hres, hmat, _, h⟩ | ⟨hres, hmat, _, h⟩ | ⟨hres, hmat, _, h⟩ := engineStep_completes s <;>
    simp [h, hres, hmat]

/-- Settles O49, by the frame of the host's turn and the completions of the engine's. -/
theorem validFlagsFollowCompletions : Obligations.ValidFlagsFollowCompletions := by
  refine ⟨rfl, fun s t hstep => ?_⟩
  obtain ⟨hturn, hhost⟩ | ⟨hturn, rfl⟩ | ⟨hturn, rfl⟩ := step_cases hstep
  · simpa [hturn] using (hostTurn_keeps_outputs hhost).1
  · simpa [hturn] using engineStep_valid (dropTurn s)
  · simp [hturn, Valid.reset]

/-- Settles O51, by the frame of the host's turn and the completions of the engine's. -/
theorem outputsChangeOnlyAtCompletion : Obligations.OutputsChangeOnlyAtCompletion := by
  intro s t hstep
  obtain ⟨hturn, hhost⟩ | ⟨hturn, rfl⟩ | ⟨hturn, rfl⟩ := step_cases hstep
  · simp [(hostTurn_keeps_outputs hhost).2]
  · simpa [hturn] using engineStep_results (dropTurn s)
  · simp [hturn]

/-! ### The written flags -/

theorem commandWrite_written {w : Word32} {s t : State} (h : commandWrite w s = .next t) : t.written = s.written := by
  obtain ⟨_, rfl⟩ | ⟨_, _, rfl⟩ | ⟨_, _, _, _, rfl⟩ | ⟨_, _, _, _, rfl⟩ := commandWrite_cases h <;> rfl

theorem hostRead_written (off size x : Nat) (s : State) : (hostRead off size x s).written = s.written := by
  obtain ⟨_, _, h⟩ | ⟨_, _, h⟩ := hostRead_cases off size x s <;> simp [h]

/-- A register write sets the flag of the operand register it names and no other (20_memory.md R57). -/
theorem isWritten_writeRegister {r : RegName} (hr : isOperand r = true) (q : RegName) (v : Word32) (s : State) :
    isWritten (writeRegister q v s).written r = true ↔ isWritten s.written r = true ∨ q = r := by
  cases q with
  | matIn n =>
    cases r with
    | matIn m =>
      by_cases hnm : n = m
      · simp [writeRegister, isWritten, hnm]
      · simp [writeRegister, isWritten, hnm, Vector.getElem_set_ne _ _ (Fin.val_ne_of_ne hnm)]
    | _ => simp [writeRegister, isWritten]
  | crcA | crcB | lenLo | lenHi | vec => cases r <;> simp [writeRegister, isWritten]
  | cmd | status | result | matOut => cases r <;> simp_all [writeRegister, isOperand]

theorem isWritten_reset (r : RegName) : isWritten Written.reset r = false := by
  cases r <;> simp [isWritten, Written.reset]

/-- A host write sets the flag of an operand register exactly when it is a 4-byte write at its offset. -/
theorem isWritten_memWrite {off size : Nat} {v : Word32} {s t : State} {r : RegName} (hr : isOperand r = true)
    (h : memWrite off size v s = .next t) :
    isWritten t.written r = true ↔ isWritten s.written r = true ∨ (off = regOffset r ∧ size = 4) := by
  have hcmd : r ≠ .cmd := by rintro rfl; simp [isOperand] at hr
  obtain ⟨f, hf, rfl⟩ | ⟨_, hoff, hwrite⟩ | ⟨hf, q, _, hoff, rfl⟩ | ⟨_, hoff, rfl⟩ := memWrite_cases h
  · have : ¬(off = regOffset r ∧ size = 4) := by
      rintro ⟨rfl, rfl⟩
      simp at hf
    simp [this]
  · have : off ≠ regOffset r := by
      rintro rfl
      simp [hcmd] at hoff
    simp [commandWrite_written hwrite, this]
  · obtain ⟨rfl, haligned, _⟩ := accessFault_eq_none.mp hf
    have : off = regOffset r ↔ q = r := by
      constructor
      · rintro rfl
        simpa [eq_comm] using hoff
      · rintro rfl
        exact (regOffset_of_regAt haligned hoff).symm
    simp [isWritten_writeRegister hr, this]
  · have : off ≠ regOffset r := by
      rintro rfl
      simp at hoff
    simp [this]

/-- The host's turn sets the flag of an operand register exactly when its transaction is a 4-byte write at its offset. -/
theorem isWritten_hostTurn {s t : State} {r : RegName} (hr : isOperand r = true) (h : hostTurn s = .next t) :
    isWritten t.written r = true ↔
      isWritten s.written r = true ∨ ∃ v rest, s.hostProgram = .wr (regOffset r) 4 v :: rest := by
  unfold hostTurn at h
  split at h
  · next hp =>
    obtain rfl := Host.Outcome.next.inj h
    simp [hp]
  · next off size v rest hp =>
    rw [isWritten_memWrite hr h]
    simp [hp]
  · next hp =>
    obtain rfl := Host.Outcome.next.inj h
    simp [hp, hostRead_written]
  · next hp =>
    obtain rfl := Host.Outcome.next.inj h
    simp [hp, hostWait_eq]

/-- Settles O50: the host's turn is the one move that sets a flag. -/
theorem writtenFlagsFollowHostWrites : Obligations.WrittenFlagsFollowHostWrites := by
  refine ⟨isWritten_reset, fun s t hstep => ?_⟩
  obtain ⟨hturn, hhost⟩ | ⟨hturn, rfl⟩ | ⟨hturn, rfl⟩ := step_cases hstep
  · simpa [hturn] using fun r hr => isWritten_hostTurn (r := r) hr hhost
  · simp [hturn, (engineStep_effect _).written_eq]
  · simp [hturn, isWritten_reset]

/-! ### States no host can tell apart: the state after reset -/

theorem written_eq_of_afterReset {s : State} (h : AfterReset s) : s.written = Written.reset := by
  obtain ⟨-, -, hcrcA, hcrcB, hlenLo, hlenHi, hvec, hmatIn, -, -⟩ := h
  have hmat : s.written.matIn = Vector.replicate 32 false := by
    ext n hn
    simpa using hmatIn ⟨n, hn⟩
  cases hw : s.written
  simp_all [Written.reset]

theorem valid_eq_of_afterReset {s : State} (h : AfterReset s) : s.valid = Valid.reset := by
  obtain ⟨-, -, -, -, -, -, -, -, hresult, hmatOut⟩ := h
  cases hv : s.valid
  simp_all [Valid.reset]

theorem afterReset_resetBlock (s : State) : AfterReset (resetBlock s) := by
  constructor <;> simp [Status.reset, Engine.reset, Written.reset, Valid.reset]

/-- After reset no operand is written, no output valid and the engine idle, so no register value is left to agree on. -/
theorem hostEquiv_of_afterReset {s t : State} (hs : AfterReset s) (ht : AfterReset t) (hfaults : s.faults = t.faults)
    (hprogram : s.hostProgram = t.hostProgram) (hvars : s.hostVars = t.hostVars) (hturns : s.turns = t.turns) :
    HostEquiv s t where
  status := hs.status.trans ht.status.symm
  written := (written_eq_of_afterReset hs).trans (written_eq_of_afterReset ht).symm
  valid := (valid_eq_of_afterReset hs).trans (valid_eq_of_afterReset ht).symm
  faults := hfaults
  hostProgram := hprogram
  hostVars := hvars
  turns := hturns
  crcA h := by simp [hs.writtenCrcA] at h
  crcB h := by simp [hs.writtenCrcB] at h
  lenLo h := by simp [hs.writtenLenLo] at h
  lenHi h := by simp [hs.writtenLenHi] at h
  vec h := by simp [hs.writtenVec] at h
  matIn n h := by simp [hs.writtenMatIn n] at h
  result h := by simp [hs.resultValid] at h
  matOut h := by simp [hs.matOutValid] at h
  engine := by simp [EngineEquiv, hs.phase, ht.phase]

/-! ### States no host can tell apart: the operations on the state -/

/-- A read of an operand register rests on its value only when it is written. -/
theorem readOperand_congr {w : Bool} {u v : Word32} {off : Nat} (h : w = true → u = v) :
    readOperand w u off = readOperand w v off := by
  cases w <;> simp_all [readOperand]

/-- A read of an output rests on its value only when it is valid. -/
theorem readOutput_congr {b w : Bool} {u v : Word32} {off : Nat} (h : w = true → u = v) :
    readOutput b w u off = readOutput b w v off := by
  cases w <;> simp_all [readOutput]

section Operations

variable {s t : State} (h : HostEquiv s t)
include h

theorem hostEquiv_raise (f : Fault) : HostEquiv (raise f s) (raise f t) :=
  { h with faults := congrArg (· ++ [f]) h.faults }

theorem hostEquiv_markIllegal : HostEquiv (markIllegal s) (markIllegal t) :=
  { h with status := congrArg illegalStatus h.status }

theorem hostEquiv_setEngine {e f : Engine} (he : EngineEquiv e f) : HostEquiv (setEngine e s) (setEngine f t) :=
  { h with engine := he }

theorem hostEquiv_completeResult (v : Word32) : HostEquiv (completeResult v s) (completeResult v t) :=
  { h with
    status := congrArg completeStatus h.status
    valid := by simp [h.valid]
    result := fun _ => rfl
    engine := ⟨rfl, trivial⟩ }

theorem hostEquiv_completeMatOut (m : Mat) : HostEquiv (completeMatOut m s) (completeMatOut m t) :=
  { h with
    status := congrArg completeStatus h.status
    valid := by simp [h.valid]
    matOut := fun _ => rfl
    engine := ⟨rfl, trivial⟩ }

theorem hostEquiv_dropTurn : HostEquiv (dropTurn s) (dropTurn t) :=
  { h with turns := congrArg List.tail h.turns }

theorem hostEquiv_setHostProgram (p : List HostOp) :
    HostEquiv { s with hostProgram := p } { t with hostProgram := p } :=
  { h with hostProgram := rfl }

theorem hostEquiv_setHostVar (x : Nat) (v : Word32) :
    HostEquiv { s with hostVars := setHostVar s.hostVars x v } { t with hostVars := setHostVar t.hostVars x v } :=
  { h with hostVars := congrArg (setHostVar · x v) h.hostVars }

theorem hostEquiv_resetBlock : HostEquiv (resetBlock s) (resetBlock t) :=
  hostEquiv_of_afterReset (afterReset_resetBlock s) (afterReset_resetBlock t) h.faults h.hostProgram h.hostVars h.turns

/-- A register write gives both states the same value and the same flag. -/
theorem hostEquiv_writeRegister (r : RegName) (v : Word32) :
    HostEquiv (writeRegister r v s) (writeRegister r v t) := by
  cases r with
  | crcA => exact { h with written := by simp [writeRegister, h.written], crcA := fun _ => rfl }
  | crcB => exact { h with written := by simp [writeRegister, h.written], crcB := fun _ => rfl }
  | lenLo => exact { h with written := by simp [writeRegister, h.written], lenLo := fun _ => rfl }
  | lenHi => exact { h with written := by simp [writeRegister, h.written], lenHi := fun _ => rfl }
  | vec => exact { h with written := by simp [writeRegister, h.written], vec := fun _ => rfl }
  | matIn n =>
    refine { h with written := by simp [writeRegister, h.written], matIn := fun k hk => ?_ }
    by_cases hnk : n = k
    · simp [writeRegister, hnk]
    · have hne := Fin.val_ne_of_ne hnk
      simp only [writeRegister, Fin.getElem_fin, Vector.getElem_set_ne _ _ hne] at hk ⊢
      exact h.matIn k hk
  | cmd | status | result | matOut => exact h

/-! ### States no host can tell apart: the host's turn -/

/-- A read of a register answers the same: an operand not written and an output not valid answer a fault and no value
(20_memory.md R56). -/
theorem readRegister_eq_of_hostEquiv (r : RegName) (off : Nat) : readRegister r off s = readRegister r off t := by
  cases r <;> simp only [readRegister, ← h.status, ← h.written, ← h.valid]
  case crcA => exact readOperand_congr h.crcA
  case crcB => exact readOperand_congr h.crcB
  case lenLo => exact readOperand_congr h.lenLo
  case lenHi => exact readOperand_congr h.lenHi
  case vec => exact readOperand_congr h.vec
  case matIn n => exact readOperand_congr (h.matIn n)
  case result => exact readOutput_congr h.result
  case matOut n => exact readOutput_congr fun hv => by rw [h.matOut hv]

theorem memRead_eq_of_hostEquiv (off size : Nat) : memRead off size s = memRead off size t := by
  unfold memRead
  split
  · rfl
  · split
    · exact readRegister_eq_of_hostEquiv h _ off
    · rfl

theorem hostEquiv_hostRead (off size x : Nat) : HostEquiv (hostRead off size x s) (hostRead off size x t) := by
  unfold hostRead
  rw [memRead_eq_of_hostEquiv h]
  split
  · exact hostEquiv_setHostVar h x _
  · exact hostEquiv_raise h _

theorem hostEquiv_hostWait (x : Nat) (rest : List HostOp) : HostEquiv (hostWait x rest s) (hostWait x rest t) := by
  rw [hostWait_eq, hostWait_eq]
  exact { h with hostProgram := by simp [h.status], hostVars := by simp [h.status, h.hostVars] }

theorem matIn_eq_of_written (hw : ∀ n : Fin 32, s.written.matIn[n] = true) : s.operands.matIn = t.operands.matIn := by
  ext1 n hn
  exact h.matIn ⟨n, hn⟩ (hw ⟨n, hn⟩)

/-- Issue latches written operands only, so the engines agree on all that the command will read (40_command_issue.md R103,
R105). -/
theorem hostEquiv_issue {i : Instr} (hw : unwrittenOperands i s.written = []) :
    HostEquiv (issue i s) (issue i t) := by
  refine { h with status := congrArg issueStatus h.status, engine := ⟨rfl, ?_⟩ }
  rw [unwrittenOperands_eq_nil] at hw
  cases i with
  | mult => exact ⟨matIn_eq_of_written h hw.2, h.vec hw.1⟩
  | square => exact matIn_eq_of_written h hw
  | combine =>
    obtain ⟨hcrcA, hcrcB, hlenLo, hlenHi⟩ := hw
    exact ⟨h.crcA hcrcA, h.crcB hcrcB, congrArg₂ (· ++ ·) (h.lenHi hlenHi) (h.lenLo hlenLo)⟩

theorem hostEquiv_issueCommand (i : Instr) : HostEquiv (issueCommand i s) (issueCommand i t) := by
  unfold issueCommand
  rw [← h.status, ← h.written]
  split_ifs with _ hw
  · exact hostEquiv_raise h _
  · exact hostEquiv_raise h _
  · exact hostEquiv_issue h (not_not.mp hw)

end Operations

/-- Two outcomes that answer next states no host can tell apart. -/
def NextEquiv (o p : Host.Outcome State Fault Refusal) : Prop :=
  ∃ s t, o = .next s ∧ p = .next t ∧ HostEquiv s t

theorem nextEquiv_next {s t : State} (h : HostEquiv s t) : NextEquiv (.next s) (.next t) :=
  ⟨s, t, rfl, rfl, h⟩

section Turns

variable {s t : State} (h : HostEquiv s t)
include h

theorem nextEquiv_commandWrite (w : Word32) : NextEquiv (commandWrite w s) (commandWrite w t) := by
  unfold commandWrite
  rw [h.status]
  split
  · exact nextEquiv_next (hostEquiv_raise h _)
  · split
    · exact nextEquiv_next (hostEquiv_markIllegal h)
    · simpa only [exec_eq] using nextEquiv_next (hostEquiv_issueCommand h _)

theorem nextEquiv_memWrite (off size : Nat) (v : Word32) : NextEquiv (memWrite off size v s) (memWrite off size v t) := by
  unfold memWrite
  split
  · exact nextEquiv_next (hostEquiv_raise h _)
  · split
    · exact nextEquiv_commandWrite h v
    · exact nextEquiv_next (hostEquiv_writeRegister h _ v)
    · exact nextEquiv_next h

theorem nextEquiv_hostTurn : NextEquiv (hostTurn s) (hostTurn t) := by
  unfold hostTurn
  rw [h.hostProgram]
  split
  · exact nextEquiv_next h
  · next off size v rest _ =>
    have hvalue : hostValue s.hostVars v = hostValue t.hostVars v := by rw [h.hostVars]
    rw [hvalue]
    exact nextEquiv_memWrite (hostEquiv_setHostProgram h _) _ _ _
  · exact nextEquiv_next (hostEquiv_hostRead (hostEquiv_setHostProgram h _) _ _ _)
  · exact nextEquiv_next (hostEquiv_hostWait h _ _)

end Turns

/-! ### States no host can tell apart: the engine's turn -/

theorem iterate_crc (e : Engine) :
    (iterate e).crc =
      if e.len.getLsbD 0 then gf2Mult (gf2Square (otherAccumulator e)) e.crc else e.crc := by
  simp only [iterate]
  split <;> rfl

theorem iterate_len (e : Engine) : (iterate e).len = e.len >>> 1 := by
  simp only [iterate]
  split <;> rfl

theorem iterate_crcB (e : Engine) : (iterate e).crcB = e.crcB := by
  simp only [iterate, writeAccumulator]
  split <;> cases e.sel <;> rfl

/-- A `C_ITER` step that stays in the loop changes the accumulator it writes next. -/
theorem iterate_sel {e : Engine} (hlen : e.len >>> 1 ≠ 0#64) : (iterate e).sel = otherSel e.sel := by
  simp [iterate, hlen]

/-- A `C_ITER` step that stays in the loop leaves the square it made to be read by the next (42_combiner.md R174). -/
theorem otherAccumulator_iterate {e : Engine} (hlen : e.len >>> 1 ≠ 0#64) :
    otherAccumulator (iterate e) = gf2Square (otherAccumulator e) := by
  cases hsel : e.sel <;> simp [iterate, hlen, otherAccumulator, writeAccumulator, otherSel, hsel]

/-- A `C_ITER` step reads of the accumulators only the one `E_SEL` does not name. -/
theorem engineEquiv_iterate {e f : Engine} (he : e.phase = .cIter) (hf : f.phase = .cIter) (hcrc : e.crc = f.crc)
    (hcrcB : e.crcB = f.crcB) (hlen : e.len = f.len) (hsel : e.sel = f.sel)
    (hacc : otherAccumulator e = otherAccumulator f) : EngineEquiv (iterate e) (iterate f) := by
  have hcrc' : (iterate e).crc = (iterate f).crc := by rw [iterate_crc, iterate_crc, hlen, hacc, hcrc]
  have hcrcB' : (iterate e).crcB = (iterate f).crcB := by rw [iterate_crcB, iterate_crcB, hcrcB]
  by_cases hlast : f.len >>> 1 = 0#64
  · simp [EngineEquiv, iterate_phase, he, hf, hlen, hlast, hcrc', hcrcB']
  · simp [EngineEquiv, iterate_phase, he, hf, hlen, hlast, hcrc', hcrcB', iterate_len, iterate_sel, hsel,
      otherAccumulator_iterate, hacc]

/-- Each engine step reads only what its phase says is live, and leaves live what it has just written or what was live
before. -/
theorem hostEquiv_engineStep {s t : State} (h : HostEquiv s t) : HostEquiv (engineStep s) (engineStep t) := by
  obtain ⟨hphase, hlive⟩ := h.engine
  unfold engineStep
  rw [← hphase]
  cases hs : s.engine.phase <;> simp only [hs] at hphase hlive ⊢
  case idle => exact h
  case mExec =>
    obtain ⟨hmat, hvec⟩ := hlive
    rw [engineMExec, engineMExec, hmat, hvec]
    exact hostEquiv_completeResult h _
  case sExec =>
    rw [engineSExec, engineSExec, hlive]
    exact hostEquiv_completeMatOut h _
  case cCheck =>
    obtain ⟨hcrc, hcrcB, hlen⟩ := hlive
    rw [engineCCheck, engineCCheck, hcrc, hlen]
    split
    · exact hostEquiv_completeResult h _
    · exact hostEquiv_setEngine h ⟨rfl, hcrc, hcrcB, hlen⟩
  case cBoot =>
    obtain ⟨hcrc, hcrcB, hlen⟩ := hlive
    exact hostEquiv_setEngine h ⟨rfl, hcrc, hcrcB, hlen, rfl⟩
  case cSq1 =>
    obtain ⟨hcrc, hcrcB, hlen, hodd⟩ := hlive
    exact hostEquiv_setEngine h ⟨rfl, hcrc, hcrcB, hlen, congrArg gf2Square hodd⟩
  case cSq2 =>
    obtain ⟨hcrc, hcrcB, hlen, heven⟩ := hlive
    exact hostEquiv_setEngine h ⟨rfl, hcrc, hcrcB, hlen, rfl, congrArg gf2Square heven⟩
  case cIter =>
    obtain ⟨hcrc, hcrcB, hlen, hsel, hacc⟩ := hlive
    exact hostEquiv_setEngine h (engineEquiv_iterate hs hphase.symm hcrc hcrcB hlen hsel hacc)
  case cFinal =>
    obtain ⟨hcrc, hcrcB⟩ := hlive
    rw [engineCFinal, engineCFinal, hcrc, hcrcB]
    exact hostEquiv_completeResult h _

/-! ### States no host can tell apart: a step -/

/-- Whose turn it is rests on the list of turns and the phase. -/
theorem nextTurn_eq_of_hostEquiv {s t : State} (h : HostEquiv s t) : nextTurn s = nextTurn t := by
  unfold nextTurn engineEnabled
  rw [h.turns, h.engine.1]

theorem nextEquiv_step {s t : State} (h : HostEquiv s t) : NextEquiv (step s) (step t) := by
  have hdrop := hostEquiv_dropTurn h
  unfold step takeTurn
  rw [nextTurn_eq_of_hostEquiv h]
  split
  · exact nextEquiv_hostTurn hdrop
  · exact nextEquiv_next (hostEquiv_engineStep hdrop)
  · exact nextEquiv_next (hostEquiv_resetBlock hdrop)

/-- Settles O54: states after reset are equivalent, and each agent's move takes equivalent states to equivalent ones. -/
theorem unspecifiedResetValuesAreInvisible : Obligations.UnspecifiedResetValuesAreInvisible := by
  refine ⟨fun _ _ => hostEquiv_of_afterReset, fun s t s' h hstep => ?_⟩
  obtain ⟨u, t', hu, ht', hequiv⟩ := nextEquiv_step h
  obtain rfl := Host.Outcome.next.inj (hstep.symm.trans hu)
  exact ⟨t', ht', hequiv⟩

end Sys2Proof.Machine

/-! ## Proofs: the register window (20_memory.md)

The register map with its reserved ranges, the checks of an access, what each access answers, and what a register write
leaves unchanged. -/

namespace Sys2Proof.Machine

open Sys2Proof.Safety

/-! ### The reserved ranges -/

theorem wordIndex_eq_none_iff {base off : Nat} : wordIndex base off = none ↔ off < base ∨ base + 128 ≤ off := by
  refine ⟨fun h => ?_, wordIndex_eq_none⟩
  unfold wordIndex at h
  split at h
  · cases h
  · omega

/-- The offsets that name no register: the two gaps after `RESULT` and after `MAT_OUT` (20_memory.md R51, R52). -/
theorem regAt_eq_none_iff {off : Nat} (haligned : off % 4 = 0) :
    regAt off = none ↔ (0x020 ≤ off ∧ off < 0x080) ∨ 0x180 ≤ off := by
  unfold regAt
  split_ifs
  case neg =>
    split
    · next n hn =>
      have : ¬(off < 0x080 ∨ 0x080 + 128 ≤ off) := fun hout => by simp [wordIndex_eq_none hout] at hn
      simp only [reduceCtorEq, false_iff]
      omega
    · next hn =>
      rw [wordIndex_eq_none_iff] at hn
      rw [Option.map_eq_none_iff, wordIndex_eq_none_iff]
      omega
  all_goals
    simp only [false_iff]
    omega

/-- The reserved offsets of the window are the aligned ones of R52's two ranges. -/
theorem reserved_iff {off : Nat} (haligned : off % 4 = 0) :
    (off < 0x200 ∧ regAt off = none) ↔ (0x020 ≤ off ∧ off ≤ 0x07C) ∨ (0x180 ≤ off ∧ off ≤ 0x1FC) := by
  rw [regAt_eq_none_iff haligned]
  omega

/-- Settles O4, from the two directions of the register map and the offsets it leaves out. -/
theorem registerMapRoundTrip : Obligations.RegisterMapRoundTrip :=
  ⟨regAt_regOffset, fun _ _ => regOffset_of_regAt, fun _ => reserved_iff⟩

/-! ### Accesses the block does not answer -/

theorem accessFault_of_badAccess {off size : Nat} (h : size ≠ 4 ∨ off % 4 ≠ 0) :
    accessFault off size = some (.badAccess off size) := if_pos h

theorem accessFault_of_outOfWindow {off : Nat} (haligned : off % 4 = 0) (h : 0x200 ≤ off) :
    accessFault off 4 = some (.outOfWindow off) := by
  simp [accessFault, haligned, Config.windowSize, h]

theorem hostRead_of_value {off size : Nat} {v : Word32} {s : State} (h : memRead off size s = .value v) (x : Nat) :
    hostRead off size x s = { s with hostVars := setHostVar s.hostVars x v } := by
  simp [hostRead, h]

theorem hostRead_of_fault {off size : Nat} {f : Fault} {s : State} (h : memRead off size s = .fault f) (x : Nat) :
    hostRead off size x s = raise f s := by
  simp [hostRead, h]

/-- A write and a read that fail a check record its fault and do nothing else (20_memory.md R53, R54). -/
theorem access_of_accessFault {off size : Nat} {f : Fault} (h : accessFault off size = some f) (x : Nat) (v : Word32)
    (s : State) :
    memWrite off size v s = .next (raise f s) ∧ memRead off size s = .fault f ∧
      hostRead off size x s = raise f s := by
  have hread : memRead off size s = .fault f := by simp [memRead, h]
  exact ⟨by simp [memWrite, h], hread, hostRead_of_fault hread x⟩

/-- Settles O7: the first check of an access. -/
theorem badAccessChangesOnlyTheRecord : Obligations.BadAccessChangesOnlyTheRecord :=
  fun _ _ x v s h => access_of_accessFault (accessFault_of_badAccess h) x v s

/-- Settles O8: the second check of an access. -/
theorem outOfWindowChangesOnlyTheRecord : Obligations.OutOfWindowChangesOnlyTheRecord :=
  fun _ x v s haligned h => access_of_accessFault (accessFault_of_outOfWindow haligned h) x v s

/-! ### Well-formed accesses and command words -/

theorem inWindow_iff {off : Nat} : HostAccess.inWindow off = true ↔ off < 0x200 := decide_eq_true_iff

theorem hostAccess_wf_iff {off size : Nat} : HostAccess.wf off size = true ↔ accessFault off size = none := by
  rw [accessFault_eq_none]
  simp [HostAccess.wf, HostAccess.aligned, inWindow_iff, and_assoc]

/-- An opcode is assigned exactly when it names a command (30_encoding.md R81). -/
theorem opcodeAssigned_iff (w : Word32) :
    CommandWord.opcodeAssigned w = true ↔ ∃ i, decodeOpcode (opcField w) = some i := by
  unfold CommandWord.opcodeAssigned decodeOpcode opcField
  split_ifs <;> simp_all

/-- A word decodes to a command exactly when its reserved bits are 0 and its opcode names that command (30_encoding.md
R82). -/
theorem decode_eq_command_iff {w : Word32} {i : Instr} :
    decode w = .command i ↔ rsvdField w = 0#28 ∧ decodeOpcode (opcField w) = some i := by
  unfold decode
  split
  · next hrsvd => simp [hrsvd]
  · next hrsvd =>
    cases decodeOpcode (opcField w) <;> simp_all

theorem commandWord_wf_iff (w : Word32) : CommandWord.wf w = true ↔ ∃ i, decode w = .command i := by
  simp [CommandWord.wf, opcodeAssigned_iff, decode_eq_command_iff, CommandWord.reservedZero, rsvdField]

/-- Settles O5: the checks of an access, and the two fields of a command word. -/
theorem wellFormedMeansAnswered : Obligations.WellFormedMeansAnswered :=
  ⟨fun _ _ => hostAccess_wf_iff, commandWord_wf_iff⟩

/-! ### Reserved offsets -/

section Reserved

variable {off : Nat} (haligned : off % 4 = 0)
  (hreserved : (0x020 ≤ off ∧ off ≤ 0x07C) ∨ (0x180 ≤ off ∧ off ≤ 0x1FC))
include haligned hreserved

theorem accessFault_regAt_of_reserved : accessFault off 4 = none ∧ regAt off = none := by
  obtain ⟨hwindow, hnone⟩ := (reserved_iff haligned).mpr hreserved
  exact ⟨accessFault_eq_none.mpr ⟨rfl, haligned, hwindow⟩, hnone⟩

theorem memRead_of_reserved (s : State) : memRead off 4 s = .value 0#32 := by
  simp [memRead, accessFault_regAt_of_reserved haligned hreserved]

theorem memWrite_of_reserved (v : Word32) (s : State) : memWrite off 4 v s = .next s := by
  simp [memWrite, accessFault_regAt_of_reserved haligned hreserved]

end Reserved

/-- Settles O9: a reserved offset passes the checks and names no register. -/
theorem reservedOffsetsReadZeroAndIgnoreWrites : Obligations.ReservedOffsetsReadZeroAndIgnoreWrites :=
  fun _ x v s haligned hreserved =>
    have hread := memRead_of_reserved haligned hreserved s
    ⟨hread, memWrite_of_reserved haligned hreserved v s, hostRead_of_value hread x⟩

/-! ### The read and the write function -/

/-- Settles O10: each clause is the read of a register by its name, or of a reserved offset. -/
theorem readFunction : Obligations.ReadFunction := by
  refine ⟨fun s => ?_, fun off size x s => ⟨fun v h => hostRead_of_value h x, fun f h => hostRead_of_fault h x⟩⟩
  have hread (r : RegName) := memRead_regOffset r s
  exact ⟨hread .cmd, hread .status, hread .crcA, hread .crcB, hread .lenLo, hread .lenHi, hread .vec, hread .result,
    fun n => hread (.matIn n), fun n => hread (.matOut n), fun _ ha hr => memRead_of_reserved ha hr s⟩

/-- Settles O11: each clause is the write of a register by its name, or of a reserved offset. -/
theorem writeFunction : Obligations.WriteFunction := by
  intro v s
  have hwrite {r : RegName} (hr : r ≠ .cmd) := memWrite_regOffset hr v s
  exact ⟨memWrite_cmd v s, hwrite (r := .crcA) nofun, hwrite (r := .crcB) nofun, hwrite (r := .lenLo) nofun,
    hwrite (r := .lenHi) nofun, hwrite (r := .vec) nofun, fun n => hwrite (r := .matIn n) nofun,
    hwrite (r := .status) nofun, hwrite (r := .result) nofun, fun n => hwrite (r := .matOut n) nofun,
    fun _ ha hr => memWrite_of_reserved ha hr v s⟩

/-! ### A read after a register write -/

theorem ne_cmd_of_isOperand {r : RegName} (hr : isOperand r = true) : r ≠ .cmd := by
  rintro rfl
  cases hr

/-- An operand register just written reads its value, since its written flag is set with it (20_memory.md R57). -/
theorem readRegister_writeRegister_same {r : RegName} (hr : isOperand r = true) (off : Nat) (v : Word32) (s : State) :
    readRegister r off (writeRegister r v s) = .value v := by
  cases r with
  | cmd | status | result | matOut => cases hr
  | matIn | crcA | crcB | lenLo | lenHi | vec => simp [readRegister, writeRegister, readOperand]

/-- A register write stores no value and sets no flag of another register. -/
theorem readRegister_writeRegister_other {q r : RegName} (hqr : q ≠ r) (off : Nat) (v : Word32) (s : State) :
    readRegister q off (writeRegister r v s) = readRegister q off s := by
  cases r with
  | cmd | status | result | matOut => rfl
  | crcA | crcB | lenLo | lenHi | vec => cases q <;> simp_all [readRegister, writeRegister]
  | matIn n =>
    cases q with
    | matIn m =>
      have hnm : n.val ≠ m.val := fun h => hqr (congrArg RegName.matIn (Fin.ext h.symm))
      simp [readRegister, writeRegister, Vector.getElem_set_ne _ _ hnm]
    | _ => rfl

/-- An access at another offset than the register written answers as before the write. -/
theorem memRead_writeRegister_other {off : Nat} {r : RegName} (hoff : off ≠ regOffset r) (size : Nat) (v : Word32)
    (s : State) : memRead off size (writeRegister r v s) = memRead off size s := by
  unfold memRead
  split
  · rfl
  · next hchecks =>
    split
    · next q hq =>
      obtain ⟨_, haligned, _⟩ := accessFault_eq_none.mp hchecks
      refine readRegister_writeRegister_other ?_ off v s
      rintro rfl
      exact hoff (regOffset_of_regAt haligned hq).symm
    · rfl

/-- Settles O12, from the reads of the register written and of the others. -/
theorem operandRegisterReadsBack : Obligations.OperandRegisterReadsBack := by
  intro r v s hr
  refine ⟨writeRegister r v s, memWrite_regOffset (ne_cmd_of_isOperand hr) v s, ?_, ?_⟩
  · rw [memRead_regOffset, readRegister_writeRegister_same hr]
  · exact fun off size hoff => memRead_writeRegister_other hoff size v s

/-! ### Side effects of accesses -/

theorem writeRegister_writeRegister_same (r : RegName) (v : Word32) (s : State) :
    writeRegister r v (writeRegister r v s) = writeRegister r v s := by
  cases r <;> simp [writeRegister]

/-- A host write elsewhere than `CMD` changes operand registers, written flags and the fault record at most. -/
theorem memWrite_frame {off size : Nat} {v : Word32} {s t : State} (hoff : regAt off ≠ some .cmd)
    (h : memWrite off size v s = .next t) :
    t = { s with operands := t.operands, written := t.written, faults := t.faults } := by
  obtain ⟨f, _, rfl⟩ | ⟨_, hcmd, _⟩ | ⟨_, r, _, _, rfl⟩ | ⟨_, _, rfl⟩ := memWrite_cases h
  · rfl
  · exact absurd hcmd hoff
  · cases r <;> rfl
  · rfl

theorem commandWrite_of_busy {s : State} (hb : s.status.busy = true) (w : Word32) :
    commandWrite w s = .next (raise (.cmdWhileBusy w) s) := if_pos hb

/-- The command word of a command that may be issued issues it (40_command_issue.md R100). -/
theorem commandWrite_encode {i : Instr} {s : State} (hb : s.status.busy = false)
    (hw : unwrittenOperands i s.written = []) : commandWrite (encode i) s = .next (issue i s) := by
  have hdecode : decode (encode i) = .command i := by cases i <;> decide
  simp [commandWrite, hb, hdecode, exec_eq, issueCommand, hw]

/-- A command write repeated: the first issues the command, the second finds the block busy and is recorded
(20_memory.md R63, 40_command_issue.md R101). -/
theorem commandWrite_repeated {i : Instr} {s : State} (hb : s.status.busy = false)
    (hw : unwrittenOperands i s.written = []) :
    ∃ t u, commandWrite (encode i) s = .next t ∧ commandWrite (encode i) t = .next u ∧ u ≠ t := by
  refine ⟨issue i s, raise (.cmdWhileBusy (encode i)) (issue i s), commandWrite_encode hb hw,
    commandWrite_of_busy rfl _, fun h => ?_⟩
  simpa using congrArg State.faults h

/-- The state after reset with the operands of COMBINE marked written. -/
def combineReady : State :=
  { State.reset with written := { Written.reset with crcA := true, crcB := true, lenLo := true, lenHi := true } }

/-- A read changes the host's variables and the fault record at most. -/
theorem hostRead_frame (off size x : Nat) (s : State) :
    hostRead off size x s =
      { s with hostVars := (hostRead off size x s).hostVars, faults := (hostRead off size x s).faults } := by
  obtain ⟨_, _, h⟩ | ⟨_, _, h⟩ := hostRead_cases off size x s
  · rw [h]
  · rw [h]; rfl

/-- No read of the block depends on what a read changes. -/
theorem memRead_hostRead (off size x off' size' : Nat) (s : State) :
    memRead off' size' (hostRead off size x s) = memRead off' size' s := by
  rw [hostRead_frame]
  exact memRead_congr off' size' rfl rfl rfl rfl rfl

/-- Settles O13; the command write that is not idempotent is COMBINE's, issued and then turned away busy. -/
theorem sideEffectsOfAccesses : Obligations.SideEffectsOfAccesses := by
  refine ⟨fun _ _ _ _ _ => memWrite_frame, ?_, ?_, ?_⟩
  · exact ⟨encode .combine, combineReady, commandWrite_repeated (i := .combine) rfl rfl⟩
  · intro r v s t hr h
    have hwrite := memWrite_regOffset (ne_cmd_of_isOperand hr) v
    obtain rfl := Host.Outcome.next.inj ((hwrite s).symm.trans h)
    rw [hwrite, writeRegister_writeRegister_same]
  · exact fun off size x off' size' s => ⟨memRead_hostRead off size x off' size' s, hostRead_frame off size x s⟩

end Sys2Proof.Machine

/-! ## Proofs: the command word, the length operand and the host's transactions (30_encoding.md)

The decoder against the encoder and against the fields of the word, illegal words, the assembly of the length operand, the
host's variables, and the pseudo-transactions WAIT and CPMAT. -/

namespace Sys2Proof.Machine

open Sys2Proof.Safety

/-! ### The command word -/

theorem forall_instr_iff {p : Instr → Prop} : (∀ i, p i) ↔ p .mult ∧ p .square ∧ p .combine := by
  refine ⟨fun h => ⟨h _, h _, h _⟩, fun ⟨hmult, hsquare, hcombine⟩ i => ?_⟩
  cases i with
  | mult => exact hmult
  | square => exact hsquare
  | combine => exact hcombine

/-- Each command's opcode names it and no other of the 16 does (30_encoding.md R81). -/
theorem decodeOpcode_eq_some_iff {opc : BitVec 4} {i : Instr} : decodeOpcode opc = some i ↔ opc = opcode i := by
  revert opc
  cases i <;> decide

/-- A command word is its two fields side by side (30_encoding.md R80). -/
theorem eq_append_iff_fields {w : Word32} {rsvd : BitVec 28} {opc : BitVec 4} :
    w = rsvd ++ opc ↔ rsvdField w = rsvd ∧ opcField w = opc := by
  unfold rsvdField opcField
  constructor
  · rintro rfl
    exact ⟨BitVec.extractLsb'_append_eq_left, BitVec.extractLsb'_append_eq_right⟩
  · rintro ⟨rfl, rfl⟩
    exact (BitVec.extractLsb'_append_extractLsb' (w := 28) (len := 4)).symm

theorem decode_eq_command_iff_fields {w : Word32} {i : Instr} :
    decode w = .command i ↔ rsvdField w = 0#28 ∧ opcField w = opcode i := by
  rw [decode_eq_command_iff, decodeOpcode_eq_some_iff]

theorem decode_eq_command_iff_encode {w : Word32} {i : Instr} : decode w = .command i ↔ w = encode i := by
  rw [decode_eq_command_iff_fields]
  exact eq_append_iff_fields.symm

/-- Decoding is total: a word is illegal exactly when it is no command (30_encoding.md R82, R83). -/
theorem decode_illegal_iff {w : Word32} : (∃ why, decode w = .illegal why) ↔ ∀ i, decode w ≠ .command i := by
  cases decode w <;> simp

/-- Settles O1: closed words, decoded. -/
theorem sampleWordsDecode : Obligations.SampleWordsDecode := by
  unfold Obligations.SampleWordsDecode
  decide

/-- Settles O2: a word decodes to a command exactly when its fields are those of the command's word. -/
theorem eachCommandHasExactlyOneWord : Obligations.EachCommandHasExactlyOneWord :=
  ⟨rfl, rfl, rfl, fun _ _ => decode_eq_command_iff_encode⟩

/-- Settles O3: the fields of a word decide whether it is a command and which. -/
theorem decodeFollowsTheFields : Obligations.DecodeFollowsTheFields := by
  refine fun w => ⟨fun hrsvd => ?_, fun hrsvd => ?_⟩
  · exact decode_illegal_iff.mpr fun i h => hrsvd (decode_eq_command_iff_fields.mp h).1
  have hcommand (i : Instr) (hopc : opcField w = opcode i) : decode w = .command i :=
    decode_eq_command_iff_fields.mpr ⟨hrsvd, hopc⟩
  refine ⟨hcommand .mult, hcommand .square, hcommand .combine, fun hmult hsquare hcombine => ?_⟩
  have hunassigned : ∀ i, opcField w ≠ opcode i := forall_instr_iff.mpr ⟨hmult, hsquare, hcombine⟩
  exact decode_illegal_iff.mpr fun i h => hunassigned i (decode_eq_command_iff_fields.mp h).2

/-! ### Illegal words -/

/-- The three words of 30_encoding.md R81 are the legal ones. -/
theorem decode_illegal_iff_ne_words {w : Word32} :
    (∃ why, decode w = .illegal why) ↔ w ≠ 0x00000001#32 ∧ w ≠ 0x00000002#32 ∧ w ≠ 0x00000003#32 := by
  simp only [decode_illegal_iff, ne_eq, decode_eq_command_iff_encode]
  exact forall_instr_iff

theorem commandWrite_of_illegal {w : Word32} {s : State} (hb : s.status.busy = false)
    (h : ∃ why, decode w = .illegal why) : commandWrite w s = .next (markIllegal s) := by
  obtain ⟨why, hdecode⟩ := h
  simp [commandWrite, hb, hdecode]

/-- Settles O15: a word other than the three decodes to no command, and its write marks the status. -/
theorem illegalWordOnlyMarksStatus : Obligations.IllegalWordOnlyMarksStatus := by
  refine ⟨fun w => decode_illegal_iff_ne_words, fun w s hb hmult hsquare hcombine => ?_⟩
  have hillegal := decode_illegal_iff_ne_words.mpr ⟨hmult, hsquare, hcombine⟩
  calc memWrite 0x000 4 w s
      = commandWrite w s := memWrite_cmd w s
    _ = .next (markIllegal s) := commandWrite_of_illegal hb hillegal
    _ = _ := by rw [markIllegal, illegalStatus, hb]

/-! ### The length operand -/

/-- Side by side is shifted and XORed: the halves have no bit in common (30_encoding.md R85). -/
theorem append_eq_shiftLeft_xor {m n : Nat} (hi : BitVec m) (lo : BitVec n) :
    hi ++ lo = (hi.setWidth (m + n) <<< n) ^^^ lo.setWidth (m + n) := by
  ext i hbound
  by_cases hlow : i < n
  · simp [BitVec.getElem_append, hlow]
  · have hhigh : i - n < m := by omega
    simp [BitVec.getElem_append, hlow, hhigh, BitVec.getLsbD_of_ge lo i (Nat.le_of_not_lt hlow)]

theorem toNat_append_eq_mul_add {m n : Nat} (hi : BitVec m) (lo : BitVec n) :
    (hi ++ lo).toNat = hi.toNat * 2 ^ n + lo.toNat := by
  rw [BitVec.toNat_append, ← Nat.shiftLeft_add_eq_or_of_lt lo.isLt, Nat.shiftLeft_eq]

/-- Settles O6; the halves of a 64-bit value are the registers that give it. -/
theorem lengthOperandAssembly : Obligations.LengthOperandAssembly := by
  refine ⟨fun o => ?_, fun o len => ?_⟩
  · exact ⟨append_eq_shiftLeft_xor o.lenHi o.lenLo, toNat_append_eq_mul_add o.lenHi o.lenLo⟩
  · exact ⟨len.extractLsb' 32 32, len.extractLsb' 0 32, BitVec.extractLsb'_append_extractLsb' (w := 32) (len := 32)⟩

/-! ### The host's variables -/

theorem HostEffect.hostVarsSorted {s t : State} (heff : HostEffect s t) (h : HostVarsSorted s) : HostVarsSorted t := by
  cases heff with
  | readInto x v => exact setHostVar_sorted x v h
  | wrote r v hr => simpa [HostVarsSorted] using h
  | faulted | illegal | issued | nothing => exact h

theorem EngineEffect.hostVars_eq {s t : State} (h : EngineEffect s t) : t.hostVars = s.hostVars := by
  cases h <;> rfl

/-- Settles O45: only a host's read sets a variable, and setting one keeps the list rising. -/
theorem hostVarsStaySorted : Obligations.HostVarsStaySorted := by
  intro s t h hstep
  have hdrop : HostVarsSorted (dropTurn s) := h
  obtain ⟨_, hhost⟩ | ⟨_, rfl⟩ | ⟨_, rfl⟩ := step_cases hstep
  · obtain ⟨_, rfl⟩ | ⟨_, heff⟩ := hostTurn_cases hhost
    · exact hdrop
    · exact heff.hostVarsSorted hdrop
  · simpa only [HostVarsSorted, (engineStep_effect _).hostVars_eq] using hdrop
  · exact hdrop

/-! ### WAIT -/

theorem hostTurn_wait {x : Nat} {rest : List HostOp} {s : State} (hprog : s.hostProgram = .wait x :: rest) :
    hostTurn s = .next (hostWait x rest s) := by
  simp [hostTurn, hprog]

/-- Settles O57, from what one pass of WAIT does. -/
theorem waitPollsUntilNotBusy : Obligations.WaitPollsUntilNotBusy := by
  intro x rest s hprog
  rw [hostTurn_wait hprog, hostWait_eq]
  constructor
  · intro hb
    simp [hb, ← hprog]
  · intro hb
    simp [hb]

/-! ### Steps of the host -/

theorem step_of_host {s : State} {ts : List Turn} (hturns : s.turns = .host :: ts) :
    step s = hostTurn { s with turns := ts } := by
  simp [step, nextTurn, dropTurn, hturns, takeTurn]

theorem runSteps_of_step {k : Nat} {s t : State} (h : step s = .next t) : runSteps (k + 1) s = runSteps k t := by
  simp [runSteps, h]

/-! ### CPMAT: the words copied -/

/-- The words `ns` of `src` written over those of `dst`, one after the other. -/
def copyWords (ns : List (Fin 32)) (src dst : Mat) : Mat := ns.foldl (fun m (n : Fin 32) => m.set n src[n]) dst

theorem getElem_copyWords (ns : List (Fin 32)) (src dst : Mat) (i : Fin 32) :
    (copyWords ns src dst)[i] = if i ∈ ns then src[i] else dst[i] := by
  induction ns generalizing dst with
  | nil => simp [copyWords]
  | cons n ns ih =>
    rw [copyWords, List.foldl_cons, ← copyWords, ih]
    by_cases hin : i = n
    · simp [hin]
    · have hne : n.val ≠ i.val := fun h => hin (Fin.ext h.symm)
      simp [hin, Vector.getElem_set_ne _ _ hne]

theorem copyWords_finRange (src dst : Mat) : copyWords (List.finRange 32) src dst = src := by
  refine Vector.ext fun i hi => ?_
  simpa using getElem_copyWords (List.finRange 32) src dst ⟨i, hi⟩

/-! ### CPMAT: its transactions -/

/-- The transactions of CPMAT for the words `ns`. -/
def txCopyWords (x : Nat) (ns : List (Fin 32)) : List HostOp :=
  ns.flatMap fun n => [rdReg (.matOut n) x, .wr (regOffset (.matIn n)) 4 (.var x)]

theorem txCpMat_eq (x : Nat) : txCpMat x = txCopyWords x (List.finRange 32) := rfl

/-- CPMAT's two transactions for word `n`, their place in the program aside. -/
def copyWord (x : Nat) (n : Fin 32) (s : State) : State :=
  writeRegister (.matIn n) s.results.matOut[n]
    { s with hostVars := setHostVar s.hostVars x s.results.matOut[n] }

/-- `MAT_OUT` is read while idle once it is valid (20_memory.md R55, R56). -/
theorem memRead_matOut {s : State} (hb : s.status.busy = false) (hv : s.valid.matOut = true) (n : Fin 32) :
    memRead (regOffset (.matOut n)) 4 s = .value s.results.matOut[n] := by
  simp [memRead_regOffset, readRegister, readOutput, hb, hv]

/-- Two host turns perform CPMAT's transactions for one word. -/
theorem runSteps_copyWord {k x : Nat} {n : Fin 32} {rest : List HostOp} {ts : List Turn} {s : State}
    (hprog : s.hostProgram = txCopyWords x [n] ++ rest) (hturns : s.turns = .host :: .host :: ts)
    (hb : s.status.busy = false) (hv : s.valid.matOut = true) :
    runSteps (k + 2) s = runSteps k { copyWord x n s with hostProgram := rest, turns := ts } := by
  have hread : step s = .next
      { s with
        hostProgram := .wr (regOffset (.matIn n)) 4 (.var x) :: rest
        hostVars := setHostVar s.hostVars x s.results.matOut[n]
        turns := .host :: ts } := by
    rw [step_of_host hturns]
    simp [hostTurn, hprog, txCopyWords, rdReg, hostRead_of_value (memRead_matOut _ _ n), hb, hv]
  rw [runSteps_of_step hread]
  apply runSteps_of_step
  rw [step_of_host rfl]
  simp [hostTurn, memWrite_regOffset, hostValue, copyWord, writeRegister]

/-- The host turns of CPMAT's transactions for the words `ns` copy those words; the other operand registers, the outputs,
the fault record, the status and the engine stay as they were. -/
theorem runSteps_copyWords (x : Nat) (ns : List (Fin 32)) {rest : List HostOp} {ts : List Turn} {s : State}
    (hprog : s.hostProgram = txCopyWords x ns ++ rest) (hturns : s.turns = List.replicate (2 * ns.length) .host ++ ts)
    (hb : s.status.busy = false) (hv : s.valid.matOut = true) :
    ∃ t, runSteps (2 * ns.length) s = .next t ∧
      t.operands = { s.operands with matIn := copyWords ns s.results.matOut s.operands.matIn } ∧
      t.results = s.results ∧ t.faults = s.faults ∧ t.status = s.status ∧ t.engine = s.engine ∧
      t.hostProgram = rest ∧ t.turns = ts := by
  induction ns generalizing s with
  | nil => exact ⟨s, rfl, rfl, rfl, rfl, rfl, rfl, hprog, hturns⟩
  | cons n ns ih =>
    have hfirst : s.hostProgram = txCopyWords x [n] ++ (txCopyWords x ns ++ rest) := hprog
    have hturn : s.turns = .host :: .host :: (List.replicate (2 * ns.length) .host ++ ts) := hturns
    rw [List.length_cons, Nat.mul_succ, runSteps_copyWord hfirst hturn hb hv]
    exact ih rfl rfl hb hv

/-- Settles O58: CPMAT is the copy of all 32 words. -/
theorem cpMatCopiesTheSquare : Obligations.CpMatCopiesTheSquare := by
  intro x rest ts s hprog hturns hb hv
  rw [txCpMat_eq] at hprog
  have h := runSteps_copyWords x (List.finRange 32) hprog hturns hb hv
  rwa [copyWords_finRange] at h

end Sys2Proof.Machine

/-! ## Proofs: the command write and its issue (40_command_issue.md R99 to R105)

What `exec` answers in each of its three cases, which operands it names as unwritten, what it leaves unchanged, and the
step in which the host writes a command's word. -/

namespace Sys2Proof.Machine

open Sys2Proof.Safety

/-! ### The three outcomes of a command -/

/-- The write of a word that decodes to a command is that command, busy or not (40_command_issue.md R100, R101). -/
theorem commandWrite_of_command {w : Word32} {i : Instr} (hdecode : decode w = .command i) (s : State) :
    commandWrite w s = exec i s := by
  obtain rfl := decode_eq_command_iff_encode.mp hdecode
  cases hb : s.status.busy <;> simp [commandWrite, hb, hdecode, exec_eq, issueCommand]

theorem memWrite_encode (i : Instr) (s : State) : memWrite 0x000 4 (encode i) s = exec i s :=
  (memWrite_cmd (encode i) s).trans (commandWrite_of_command (decode_eq_command_iff_encode.mpr rfl) s)

theorem exec_of_busy {s : State} (hb : s.status.busy = true) (i : Instr) :
    exec i s = .next (raise (.cmdWhileBusy (encode i)) s) := by
  simp [exec_eq, issueCommand, hb]

theorem exec_of_unwritten {i : Instr} {s : State} (hb : s.status.busy = false) (hw : ¬OperandsWritten i s.written) :
    exec i s = .next (raise (.unwrittenOperand i (unwrittenOperands i s.written)) s) := by
  rw [← unwrittenOperands_eq_nil] at hw
  simp [exec_eq, issueCommand, hb, hw]

theorem exec_of_written {i : Instr} {s : State} (hb : s.status.busy = false) (hw : OperandsWritten i s.written) :
    exec i s = .next (issue i s) := by
  rw [← unwrittenOperands_eq_nil] at hw
  simp [exec_eq, issueCommand, hb, hw]

/-- Settles O14: the outcomes of a command write, of which only an issue and an illegal word add no fault while idle. -/
theorem commandWriteWhileBusyIsOnlyRecorded : Obligations.CommandWriteWhileBusyIsOnlyRecorded := by
  refine ⟨fun w s hb => ?_, fun i s hb => exec_of_busy hb i, fun w s t hb h => ?_⟩
  · exact (memWrite_cmd w s).trans (commandWrite_of_busy hb w)
  · have hwrite : commandWrite w s = .next t := (memWrite_cmd w s).symm.trans h
    obtain ⟨hbusy, _⟩ | ⟨_, _, rfl⟩ | ⟨_, _, _, _, rfl⟩ | ⟨_, _, _, _, rfl⟩ := commandWrite_cases hwrite
    · simp [hb] at hbusy
    · simp [illegalStatus]
    · exact ⟨by simp, fun _ => rfl⟩
    · simp [issueStatus]

/-! ### Unwritten operands -/

theorem mem_matInFlags {w : Written} {r : RegName} {b : Bool} :
    (r, b) ∈ matInFlags w ↔ ∃ n : Fin 32, r = .matIn n ∧ w.matIn[n] = b := by
  simp [matInFlags, eq_comm]

/-- The list a command records holds the registers it needs whose written flag is false (40_command_issue.md R103). -/
theorem mem_unwrittenOperands {i : Instr} {w : Written} {r : RegName} :
    r ∈ unwrittenOperands i w ↔ needs i r = true ∧ isWritten w r = false := by
  cases i with
  | mult =>
    cases r <;> simp [unwrittenOperands, unwrittenForMult, mem_unwrittenOf, mem_matInFlags, needs, isWritten]
  | square =>
    cases r <;> simp [unwrittenOperands, unwrittenForSquare, mem_unwrittenOf, mem_matInFlags, needs, isWritten]
  | combine =>
    cases r <;> simp [unwrittenOperands, unwrittenForCombine, mem_unwrittenOf, needs, isWritten]

/-- Settles O16: the command is turned away with the list of unwritten operands. -/
theorem unwrittenOperandTurnsCommandAway : Obligations.UnwrittenOperandTurnsCommandAway := by
  intro i s hb hw
  have hexec := exec_of_unwritten hb hw
  exact ⟨unwrittenOperands i s.written, hexec, (memWrite_encode i s).trans hexec, fun _ => mem_unwrittenOperands⟩

/-! ### Issue and the frame of a command -/

/-- The engine reads no operand register: what it computes with was latched at issue (40_command_issue.md R105). -/
theorem engineStep_setOperands (s : State) (o : Operands) :
    engineStep { s with operands := o } = { engineStep s with operands := o } := by
  cases hp : s.engine.phase <;> simp only [engineStep, hp]
  case cCheck =>
    simp only [engineCCheck]
    split <;> rfl
  all_goals rfl

/-- Settles O17, from the outcome of a command that may be issued. -/
theorem legalCommandIsIssued : Obligations.LegalCommandIsIssued := by
  refine ⟨fun i s hb hw => ⟨?_, memWrite_encode i s⟩, engineStep_setOperands⟩
  rw [exec_of_written hb hw]
  cases i <;> rfl

/-- A read elsewhere than of `STATUS`, `RESULT` and `MAT_OUT` depends on the operand registers and their flags alone. -/
theorem memRead_congr_of_operands {off : Nat} {s t : State} (hstatus : regAt off ≠ some .status)
    (hresult : regAt off ≠ some .result) (hmatOut : ∀ n, regAt off ≠ some (.matOut n))
    (hoperands : t.operands = s.operands) (hwritten : t.written = s.written) (size : Nat) :
    memRead off size t = memRead off size s := by
  unfold memRead
  split
  · rfl
  · split
    · next r hr =>
      cases r with
      | status => exact absurd hr hstatus
      | result => exact absurd hr hresult
      | matOut n => exact absurd hr (hmatOut n)
      | _ => simp only [readRegister, hoperands, hwritten]
    · rfl

/-- A command changes the status, the engine and the fault record at most. -/
theorem exec_frame {i : Instr} {s t : State} (h : exec i s = .next t) :
    t.operands = s.operands ∧ t.results = s.results ∧ t.written = s.written ∧ t.valid = s.valid ∧
      t.hostProgram = s.hostProgram ∧ t.hostVars = s.hostVars ∧ t.turns = s.turns := by
  obtain ⟨_, rfl⟩ | ⟨_, _, rfl⟩ | ⟨_, _, rfl⟩ := exec_cases h <;> simp

/-- Of the engine registers a command changes the phase and those it latches at most. -/
theorem exec_engine {i : Instr} {s t : State} (h : exec i s = .next t) :
    t.engine = s.engine ∨ t.engine = { latch i s.operands s.engine with phase := startPhase i } := by
  obtain ⟨_, rfl⟩ | ⟨_, _, rfl⟩ | ⟨_, _, rfl⟩ := exec_cases h
  · exact .inl rfl
  · exact .inl rfl
  · exact .inr rfl

/-- Settles O21, from the frame of a command and what its latch leaves of the engine. -/
theorem commandWriteFrame : Obligations.CommandWriteFrame := by
  intro i s t h
  obtain ⟨hoperands, hresults, hwritten, hvalid, hprogram, hvars, hturns⟩ := exec_frame h
  refine ⟨hoperands, hresults, hwritten, hvalid, hprogram, hvars, hturns, ?_⟩
  have hread (off size : Nat) (hstatus : regAt off ≠ some .status) (hresult : regAt off ≠ some .result)
      (hmatOut : ∀ n, regAt off ≠ some (.matOut n)) : memRead off size t = memRead off size s :=
    memRead_congr_of_operands hstatus hresult hmatOut hoperands hwritten size
  obtain hengine | hengine := exec_engine h
  · simpa [hengine] using hread
  · cases i <;> simpa [hengine, latch, latchMult, latchSquare, latchCombine] using hread

/-! ### The step that runs a command -/

theorem step_eq_hostTurn {s : State} (h : nextTurn s = .host) : step s = hostTurn (dropTurn s) := by
  simp [step, takeTurn, h]

/-- The host's turn at a write of a command's word to `CMD` is the command. -/
theorem hostTurn_of_command {s : State} {v : HostValue} {rest : List HostOp} {i : Instr}
    (hprog : s.hostProgram = .wr 0x000 4 v :: rest) (hdecode : decode (hostValue s.hostVars v) = .command i) :
    hostTurn s = exec i { s with hostProgram := rest } := by
  calc hostTurn s
      = memWrite 0x000 4 (hostValue s.hostVars v) { s with hostProgram := rest } := by simp only [hostTurn, hprog]
    _ = commandWrite (hostValue s.hostVars v) { s with hostProgram := rest } := memWrite_cmd _ _
    _ = exec i { s with hostProgram := rest } := commandWrite_of_command hdecode _

/-- Settles O39: the host's turn, on the state with the turn taken off. -/
theorem stepRunsTheDecodedCommand : Obligations.StepRunsTheDecodedCommand := by
  intro s v rest i hturn hprog hdecode
  rw [step_eq_hostTurn hturn]
  exact hostTurn_of_command hprog hdecode

theorem decodeTableWord_eq_some {nbits w : Nat} {i : Instr} (h : decodeTableWord nbits w = some i) :
    decode (BitVec.ofNat 32 (w % 2 ^ nbits)) = .command i := by
  unfold decodeTableWord at h
  split at h
  · cases hdecode : decode (BitVec.ofNat 32 (w % 2 ^ nbits)) <;> simp_all [Decoded.toOption]
  · cases h

/-- Settles O40: the word placed is the host's next transaction, and taking it off gives the state it was placed in. -/
theorem placedCommandRunsNext : Obligations.PlacedCommandRunsNext := by
  intro s nbits w i h
  exact stepRunsTheDecodedCommand (s.withFetchWord nbits w) (.imm _) s.hostProgram i rfl rfl (decodeTableWord_eq_some h)

end Sys2Proof.Machine

/-! ## Proofs: the engine agent (40_command_issue.md R106 to R112)

What an engine step leaves unchanged and what its completion writes, how many steps are left and what they will have
written, and a command's run through any interleaving with the host. -/

namespace Sys2Proof.Machine

open Sys2Proof.Safety

/-! ### Completion -/

/-- The word a completion step writes to `RESULT` (41_matrix_ops.md R137, 42_combiner.md R170, R175). -/
def completionWord (e : Engine) : Word32 :=
  if e.phase = .mExec then gf2Mult e.mat e.vec
  else if e.phase = .cFinal then e.crc ^^^ e.crcB
  else e.crc

/-- An enabled engine step completes with `RESULT`, completes with `MAT_OUT`, or stays busy and writes engine registers
only; this gives the outputs that `engineStep_completes` leaves open. -/
theorem engineStep_outputs {s : State} (hp : s.engine.phase ≠ .idle) :
    (CompletesWithResult s.engine ∧ engineStep s = completeResult (completionWord s.engine) s) ∨
    (s.engine.phase = .sExec ∧ engineStep s = completeMatOut (gf2Square s.engine.mat) s) ∨
    ∃ e, e.phase ≠ .idle ∧ engineStep s = setEngine e s := by
  cases hphase : s.engine.phase <;> simp only [engineStep, hphase, CompletesWithResult, completionWord]
  case idle => exact absurd hphase hp
  case mExec | cFinal => exact .inl ⟨by simp, rfl⟩
  case sExec => exact .inr (.inl ⟨trivial, rfl⟩)
  case cCheck =>
    unfold engineCCheck
    split
    · next hlen => exact .inl ⟨by simp [hlen], rfl⟩
    · exact .inr (.inr ⟨_, by simp, rfl⟩)
  case cIter =>
    refine .inr (.inr ⟨_, ?_, rfl⟩)
    rw [iterate_phase _ hphase]
    split <;> simp
  all_goals exact .inr (.inr ⟨_, by simp, rfl⟩)

/-- Settles O23, from the outputs of an enabled step. -/
theorem completionIsOneStep : Obligations.CompletionIsOneStep := by
  intro s hp
  obtain ⟨hcompletes, h⟩ | ⟨hphase, h⟩ | ⟨e, he, h⟩ := engineStep_outputs hp
  · have hphase : s.engine.phase ≠ .sExec := by
      intro hphase
      simp [CompletesWithResult, hphase] at hcompletes
    simp [h, completeStatus, completionWord, hcompletes, hphase]
  · simp [h, completeStatus, hphase]
  · simp [h, he]

/-! ### Steps left -/

/-- The `C_ITER` steps left for a length: one for each bit of it, and one for a length of 0 (42_combiner.md R165). -/
def iterationsLeft (len : Word64) : Nat := len.toNat.log2 + 1

theorem iterationsLeft_le (len : Word64) : iterationsLeft len ≤ 64 := by
  by_cases h : len.toNat = 0
  · simp [iterationsLeft, h]
  · exact (Nat.log2_lt h).mpr len.isLt

theorem iterationsLeft_of_last {len : Word64} (h : len >>> 1 = 0#64) : iterationsLeft len = 1 := by
  have hhalf : len.toNat >>> 1 = 0 := by simpa using congrArg BitVec.toNat h
  have hsmall : len.toNat < 2 := by omega
  simp [iterationsLeft, Nat.log2_eq_log_two, Nat.log_of_lt hsmall]

theorem iterationsLeft_of_not_last {len : Word64} (h : len >>> 1 ≠ 0#64) :
    iterationsLeft len = iterationsLeft (len >>> 1) + 1 := by
  have hhalf : len.toNat >>> 1 ≠ 0 := fun h0 => h (BitVec.eq_of_toNat_eq (by simpa using h0))
  simp only [iterationsLeft, BitVec.toNat_ushiftRight]
  rw [Nat.log2_eq_succ_log2_shiftRight hhalf]

/-- The steps an engine takes until it is idle (70_reset_and_hazards.md R250). -/
def stepsLeft (e : Engine) : Nat :=
  match e.phase with
  | .idle => 0
  | .mExec | .sExec | .cFinal => 1
  | .cCheck => if e.len = 0#64 then 1 else iterationsLeft e.len + 5
  | .cBoot => iterationsLeft e.len + 4
  | .cSq1 => iterationsLeft e.len + 3
  | .cSq2 => iterationsLeft e.len + 2
  | .cIter => iterationsLeft e.len + 1

theorem stepsLeft_eq_zero {e : Engine} : stepsLeft e = 0 ↔ e.phase = .idle := by
  unfold stepsLeft
  cases e.phase <;> simp
  split <;> simp

theorem phase_ne_idle_of_stepsLeft {e : Engine} {k : Nat} (h : stepsLeft e = k + 1) : e.phase ≠ .idle :=
  fun hidle => by simp [stepsLeft_eq_zero.mpr hidle] at h

theorem stepsLeft_le (e : Engine) : stepsLeft e ≤ 69 := by
  have := iterationsLeft_le e.len
  unfold stepsLeft
  cases e.phase <;> dsimp only
  case cCheck => split <;> omega
  all_goals omega

theorem stepsLeft_iterate {e : Engine} (hp : e.phase = .cIter) : stepsLeft e = stepsLeft (iterate e) + 1 := by
  by_cases hlast : e.len >>> 1 = 0#64
  · simp [stepsLeft, hp, iterate_phase, hlast, iterationsLeft_of_last]
  · simp [stepsLeft, hp, iterate_phase, hlast, iterate_len, iterationsLeft_of_not_last]

/-- An enabled step is one of those left. -/
theorem stepsLeft_engineStep {s : State} (hp : s.engine.phase ≠ .idle) :
    stepsLeft s.engine = stepsLeft (engineStep s).engine + 1 := by
  cases hphase : s.engine.phase <;> simp only [engineStep, hphase]
  case idle => exact absurd hphase hp
  case cCheck =>
    by_cases hlen : s.engine.len = 0#64 <;> simp [engineCCheck, stepsLeft, hphase, hlen]
  case cIter => exact stepsLeft_iterate hphase
  all_goals
    simp [engineMExec, engineSExec, engineCBoot, engineCSq1, engineCSq2, engineCFinal, stepsLeft, hphase]

theorem stepsLeft_engineStep_of_succ {s : State} {k : Nat} (h : stepsLeft s.engine = k + 1) :
    stepsLeft (engineStep s).engine = k :=
  Nat.succ.inj ((stepsLeft_engineStep (phase_ne_idle_of_stepsLeft h)).symm.trans h)

/-- A command's step count is the steps left at its issue (70_reset_and_hazards.md R250). -/
theorem commandSteps_eq_stepsLeft (i : Instr) (s : State) :
    commandSteps i s.operands = stepsLeft (issue i s).engine := by
  cases i with
  | mult | square => rfl
  | combine =>
    by_cases hlen : lengthOperand s.operands = 0#64 <;>
      simp [commandSteps, stepsLeft, latch, latchCombine, startPhase, bitLength, iterationsLeft, hlen]

/-! ### The frame of an engine step -/

/-- No enabled step leaves the state as it is, since there is one less to take. -/
theorem engineStep_eq_self {s : State} : engineStep s = s ↔ s.engine.phase = .idle := by
  refine ⟨fun h => ?_, fun hp => by simp [engineStep, hp]⟩
  by_contra hp
  have hleft := stepsLeft_engineStep hp
  rw [h] at hleft
  omega

/-- What an engine step makes of the engine registers depends on them alone. -/
theorem engineStep_engine_congr {s t : State} (h : s.engine = t.engine) :
    (engineStep s).engine = (engineStep t).engine := by
  cases hp : t.engine.phase <;> simp only [engineStep, h, hp]
  case cCheck =>
    unfold engineCCheck
    rw [h]
    split <;> simp [h]
  all_goals
    simp [engineMExec, engineSExec, engineCBoot, engineCSq1, engineCSq2, engineCIter, engineCFinal, h]

theorem EngineEffect.frame {s t : State} (h : EngineEffect s t) :
    t.operands = s.operands ∧ t.written = s.written ∧ t.faults = s.faults ∧ t.hostProgram = s.hostProgram ∧
      t.hostVars = s.hostVars ∧ t.turns = s.turns := by
  cases h <;> simp

theorem engineStep_turns (s : State) : (engineStep s).turns = s.turns := by
  obtain ⟨_, _, _, _, _, hturns⟩ := (engineStep_effect s).frame
  exact hturns

/-- Settles O22, from the count of the steps left, the frame of a step and its completion. -/
theorem engineStepTouchesOnlyTheEngine : Obligations.EngineStepTouchesOnlyTheEngine := by
  refine ⟨fun s => engineStep_eq_self, fun s => ?_, fun s t => engineStep_engine_congr⟩
  obtain ⟨hoperands, hwritten, hfaults, hprogram, hvars, hturns⟩ := (engineStep_effect s).frame
  refine ⟨hoperands, hwritten, hfaults, hprogram, hvars, hturns, fun hbusy => ?_⟩
  have hp : s.engine.phase ≠ .idle := fun hidle => hbusy (by rwa [engineStep_eq_self.mpr hidle])
  exact (completionIsOneStep s hp).2 hbusy

/-! ### Turns of the engine and of an idle machine -/

theorem step_eq_engineStep {s : State} (h : nextTurn s = .engine) : step s = .next (engineStep (dropTurn s)) := by
  simp [step, takeTurn, h]

/-- With no turn listed the engine runs to IDLE in the steps it has left. -/
theorem runSteps_stepsLeft {s : State} (hturns : s.turns = []) :
    ∃ t, runSteps (stepsLeft s.engine) s = .next t ∧ t.engine.phase = .idle := by
  induction hk : stepsLeft s.engine generalizing s with
  | zero => exact ⟨s, rfl, stepsLeft_eq_zero.mp hk⟩
  | succ k ih =>
    have hp : s.engine.phase ≠ .idle := phase_ne_idle_of_stepsLeft hk
    have hturn : nextTurn s = .engine := by simp [nextTurn, hturns, engineEnabled, hp]
    rw [runSteps_of_step (step_eq_engineStep hturn)]
    exact ih (by simp [engineStep_turns, hturns]) (stepsLeft_engineStep_of_succ (s := dropTurn s) hk)

/-- Settles O55: the steps left are at most 69. -/
theorem engineReachesIdleWhenTurnsRunOut : Obligations.EngineReachesIdleWhenTurnsRunOut := by
  intro s hturns
  obtain ⟨t, hrun, hidle⟩ := runSteps_stepsLeft hturns
  exact ⟨stepsLeft s.engine, t, stepsLeft_le s.engine, hrun, hidle⟩

/-- Settles O56: the host has no transaction left, and an idle engine no step. -/
theorem finalStateStays : Obligations.FinalStateStays := by
  intro s ⟨hprog, hidle, _⟩ hreset
  cases hturn : nextTurn s with
  | host => simp [step_eq_hostTurn hturn, hostTurn, hprog, dropTurn]
  | engine =>
    have hstay : engineStep (dropTurn s) = dropTurn s := engineStep_eq_self.mpr hidle
    rw [step_eq_engineStep hturn, hstay, dropTurn]
  | reset =>
    unfold nextTurn at hturn
    split at hturn
    · next t ts hturns => exact absurd hturn (hreset t (by simp [hturns]))
    · split at hturn <;> cases hturn

/-! ### The host while the block is busy -/

theorem HostEffect.engine_status_of_busy {s t : State} (h : HostEffect s t) (hb : s.status.busy = true) :
    t.engine = s.engine ∧ t.status = s.status := by
  cases h with
  | illegal hidle => simp [hb] at hidle
  | issued i hidle hw => simp [hb] at hidle
  | wrote r v hr => simp
  | faulted | nothing | readInto => exact ⟨rfl, rfl⟩

theorem HostEffect.turns_eq {s t : State} (h : HostEffect s t) : t.turns = s.turns := by
  cases h <;> simp

theorem hostTurn_turns {s t : State} (h : hostTurn s = .next t) : t.turns = s.turns := by
  obtain ⟨_, rfl⟩ | ⟨_, heff⟩ := hostTurn_cases h
  · rfl
  · exact heff.turns_eq

/-- While busy a host's turn leaves the engine, the status and the outputs (40_command_issue.md R108, R110). -/
theorem hostTurn_of_busy {s t : State} (hb : s.status.busy = true) (h : hostTurn s = .next t) :
    t.engine = s.engine ∧ t.status = s.status ∧ t.results = s.results ∧ t.valid = s.valid := by
  obtain ⟨hvalid, hresults⟩ := hostTurn_keeps_outputs h
  obtain ⟨_, rfl⟩ | ⟨_, heff⟩ := hostTurn_cases h
  · exact ⟨rfl, rfl, rfl, rfl⟩
  · obtain ⟨hengine, hstatus⟩ := heff.engine_status_of_busy hb
    exact ⟨hengine, hstatus, hresults, hvalid⟩

theorem readRegister_of_written {r : RegName} {s : State} (hr : isOperand r = true)
    (hw : isWritten s.written r = true) (off : Nat) : ∃ v, readRegister r off s = .value v := by
  cases r with
  | cmd | status | result | matOut => cases hr
  | crcA | crcB | lenLo | lenHi | vec | matIn => exact ⟨_, if_pos hw⟩

/-- Settles O42: the frame of a host turn while busy, and accesses register by register. -/
theorem hostCannotDisturbABusyEngine : Obligations.HostCannotDisturbABusyEngine := by
  intro s hb
  refine ⟨fun t => hostTurn_of_busy hb, memRead_regOffset .status s, fun r hr hw => ?_, fun r v hr => ?_, ?_,
    fun n => ?_, fun w => (memWrite_cmd w s).trans (commandWrite_of_busy hb w)⟩
  · rw [memRead_regOffset]
    exact readRegister_of_written hr hw _
  · exact ⟨writeRegister r v s, memWrite_regOffset (ne_cmd_of_isOperand hr) v s, writeRegister_faults r v s⟩
  · exact (memRead_regOffset .result s).trans (if_pos hb)
  · exact (memRead_regOffset (.matOut n) s).trans (if_pos hb)

/-! ### What the steps left will have written -/

/-- The loop of R162 does not depend on its bound once that allows for the iterations of the length. -/
theorem combineLoop_eq_of_le {bound : Nat} {even odd : Mat} {crc : Word32} {len : Word64} {sel : Sel}
    (hbound : iterationsLeft len ≤ bound) :
    combineLoop bound even odd crc len sel = combineLoop (iterationsLeft len) even odd crc len sel := by
  induction bound generalizing even odd crc len sel with
  | zero => simp [iterationsLeft] at hbound
  | succ bound ih =>
    by_cases hlast : len >>> 1 = 0#64
    · simp [iterationsLeft_of_last, combineLoop, hlast]
    · rw [iterationsLeft_of_not_last hlast] at hbound ⊢
      simp only [combineLoop, hlast, if_false]
      exact ih (Nat.le_of_succ_le_succ hbound)

/-- The rest of the loop of R162 and the XOR of R163, from what the engine holds before a `C_ITER` step. -/
def loopOutcome (even odd : Mat) (sel : Sel) (e : Engine) : Word32 :=
  combineLoop (iterationsLeft e.len) even odd e.crc e.len sel ^^^ e.crcB

theorem combine_eq_loopOutcome {e : Engine} (hlen : e.len ≠ 0#64) :
    combine e.crc e.crcB e.len = loopOutcome (gf2Square boot) (gf2Square (gf2Square boot)) .even e := by
  simp [combine, hlen, loopOutcome, combineLoop_eq_of_le (iterationsLeft_le e.len)]

/-- The outputs when the engine has taken the steps it has left. -/
def outcome (e : Engine) (r : Results) : Results :=
  match e.phase with
  | .idle => r
  | .mExec => { r with result := gf2Mult e.mat e.vec }
  | .sExec => { r with matOut := gf2Square e.mat }
  | .cCheck => { r with result := combine e.crc e.crcB e.len }
  | .cBoot => { r with result := loopOutcome (gf2Square boot) (gf2Square (gf2Square boot)) .even e }
  | .cSq1 => { r with result := loopOutcome (gf2Square e.odd) (gf2Square (gf2Square e.odd)) .even e }
  | .cSq2 => { r with result := loopOutcome e.even (gf2Square e.even) .even e }
  | .cIter => { r with result := loopOutcome e.even e.odd e.sel e }
  | .cFinal => { r with result := e.crc ^^^ e.crcB }

theorem outcome_of_idle {e : Engine} (hp : e.phase = .idle) (r : Results) : outcome e r = r := by
  simp [outcome, hp]

/-- One iteration of the loop of R162 is a `C_ITER` step; after the last the XOR is left. -/
theorem outcome_iterate {e : Engine} (hp : e.phase = .cIter) (r : Results) :
    outcome (iterate e) r = outcome e r := by
  by_cases hlast : e.len >>> 1 = 0#64
  · simp only [outcome, iterate_phase _ hp, hp, hlast, if_true, iterate_crcB, loopOutcome, iterationsLeft_of_last,
      combineLoop]
    cases hsel : e.sel <;> simp [iterate_crc, otherAccumulator, hsel]
  · simp only [outcome, iterate_phase _ hp, hp, hlast, if_false, iterate_crcB, iterate_len, loopOutcome,
      iterationsLeft_of_not_last hlast, combineLoop]
    cases hsel : e.sel <;> simp [iterate, hlast, writeAccumulator, otherAccumulator, otherSel, hsel]

/-- An engine step changes nothing of what the outputs will be. -/
theorem outcome_engineStep (s : State) :
    outcome (engineStep s).engine (engineStep s).results = outcome s.engine s.results := by
  cases hp : s.engine.phase <;> simp only [engineStep, hp]
  case cCheck =>
    by_cases hlen : s.engine.len = 0#64
    · simp [engineCCheck, outcome, hp, hlen, combine]
    · simp [engineCCheck, outcome, hp, hlen, combine_eq_loopOutcome, loopOutcome]
  case cIter => exact outcome_iterate hp s.results
  all_goals
    simp [engineMExec, engineSExec, engineCBoot, engineCSq1, engineCSq2, engineCFinal, outcome, loopOutcome, hp]

/-! ### A command's run -/

theorem nextTurn_of_turns {s : State} {x : Turn} {ts : List Turn} (hturns : s.turns = x :: ts) : nextTurn s = x := by
  simp [nextTurn, hturns]

/-- The last step left completes: the engine is idle, and the outputs are what they were to be. -/
theorem engineStep_of_last {s : State} (hleft : stepsLeft s.engine = 1) :
    (engineStep s).engine.phase = .idle ∧ (engineStep s).status = completeStatus s.status ∧
      (engineStep s).results = outcome s.engine s.results := by
  have hp : s.engine.phase ≠ .idle := phase_ne_idle_of_stepsLeft hleft
  have hidle : (engineStep s).engine.phase = .idle :=
    stepsLeft_eq_zero.mp (stepsLeft_engineStep_of_succ hleft)
  obtain ⟨hstatus, _⟩ := (completionIsOneStep s hp).1 hidle
  refine ⟨hidle, hstatus, ?_⟩
  rw [← outcome_engineStep, outcome_of_idle hidle]

/-- A step before the last leaves one step less and keeps the status. -/
theorem engineStep_of_not_last {s : State} {k : Nat} (hleft : stepsLeft s.engine = k + 2) :
    stepsLeft (engineStep s).engine = k + 1 ∧ (engineStep s).status = s.status := by
  have hp : s.engine.phase ≠ .idle := phase_ne_idle_of_stepsLeft hleft
  have hnext := stepsLeft_engineStep_of_succ hleft
  have hbusy : (engineStep s).engine.phase ≠ .idle := phase_ne_idle_of_stepsLeft hnext
  obtain ⟨hstatus, _⟩ := (completionIsOneStep s hp).2 hbusy
  exact ⟨hnext, hstatus⟩

/-- A busy engine runs to its completion through any interleaving with the host, and writes the outcome of what it held
at the start (40_command_issue.md R108). -/
theorem runSteps_to_completion {s : State} {ts rest : List Turn} (hturns : s.turns = ts ++ .engine :: rest)
    (hreset : ∀ x ∈ ts, x ≠ .reset) (hleft : stepsLeft s.engine = ts.count .engine + 1)
    (hb : s.status.busy = true) :
    ∃ u, runSteps (ts.length + 1) s = .next u ∧ u.engine.phase = .idle ∧ u.status = completeStatus s.status ∧
      u.results = outcome s.engine s.results := by
  induction ts generalizing s with
  | nil =>
    rw [List.length_nil, runSteps_of_step (step_eq_engineStep (nextTurn_of_turns hturns))]
    exact ⟨engineStep (dropTurn s), rfl, engineStep_of_last (s := dropTurn s) hleft⟩
  | cons x ts ih =>
    have hturn : nextTurn s = x := nextTurn_of_turns hturns
    have hrest : (dropTurn s).turns = ts ++ .engine :: rest := congrArg List.tail hturns
    have hreset' : ∀ y ∈ ts, y ≠ .reset := fun y hy => hreset y (List.mem_cons_of_mem x hy)
    cases x with
    | reset => exact absurd rfl (hreset .reset List.mem_cons_self)
    | host =>
      obtain ⟨t, ht⟩ := hostTurn_next (dropTurn s)
      obtain ⟨hengine : t.engine = s.engine, hstatus : t.status = s.status, hresults : t.results = s.results, _⟩ :=
        hostTurn_of_busy (s := dropTurn s) hb ht
      have hcount : stepsLeft t.engine = ts.count .engine + 1 := by simpa [hengine] using hleft
      rw [List.length_cons, runSteps_of_step ((step_eq_hostTurn hturn).trans ht), ← hengine, ← hstatus, ← hresults]
      exact ih ((hostTurn_turns ht).trans hrest) hreset' hcount (by rwa [hstatus])
    | engine =>
      rw [List.count_cons_self] at hleft
      obtain ⟨hnext, hstatus : _ = s.status⟩ := engineStep_of_not_last (s := dropTurn s) hleft
      have hsame : _ = outcome s.engine s.results := outcome_engineStep (dropTurn s)
      rw [List.length_cons, runSteps_of_step (step_eq_engineStep hturn), ← hstatus, ← hsame]
      exact ih ((engineStep_turns _).trans hrest) hreset' hnext (by rwa [hstatus])

/-- Settles O41: the issued engine's outcome is that of the operands it latched. -/
theorem resultIndependentOfInterleaving : Obligations.ResultIndependentOfInterleaving := by
  intro i s t ts rest hb hw hturns hreset hcount hexec
  obtain rfl := Host.Outcome.next.inj ((exec_of_written hb hw).symm.trans hexec)
  have hleft : stepsLeft (issue i s).engine = ts.count .engine + 1 :=
    (commandSteps_eq_stepsLeft i s).symm.trans hcount.symm
  obtain ⟨u, hrun, hidle, hstatus, hresults⟩ := runSteps_to_completion (s := issue i s) hturns hreset hleft rfl
  refine ⟨u, hrun, hidle, hstatus, ?_, ?_, ?_⟩
  all_goals
    rintro rfl
    exact hresults

end Sys2Proof.Machine

/-! ## Proofs: the matrix operations (41_matrix_ops.md)

The product as an XOR over words of the matrix, from which its linearity, the composition of matrices and the powers
follow; then the commands MULT and SQUARE with their engine steps. -/

namespace Sys2Proof.Machine

open Sys2Proof.Safety

/-! ### XOR over a list -/

/-- The XOR over a list of indices of a word for each. -/
def xorOver {ι : Type} (ns : List ι) (f : ι → Word32) : Word32 := ns.foldr (fun n acc => f n ^^^ acc) 0#32

section XorOver

variable {ι : Type}

@[simp] theorem xorOver_nil (f : ι → Word32) : xorOver [] f = 0#32 := rfl

@[simp] theorem xorOver_cons (n : ι) (ns : List ι) (f : ι → Word32) : xorOver (n :: ns) f = f n ^^^ xorOver ns f := rfl

theorem foldl_xor_eq_xorOver (ns : List ι) (f : ι → Word32) (r : Word32) :
    ns.foldl (fun acc n => acc ^^^ f n) r = r ^^^ xorOver ns f := by
  induction ns generalizing r with
  | nil => simp
  | cons n ns ih => simp [ih, BitVec.xor_assoc]

theorem foldl_xor_zero (ns : List ι) (f : ι → Word32) : ns.foldl (fun acc n => acc ^^^ f n) 0#32 = xorOver ns f := by
  rw [foldl_xor_eq_xorOver, BitVec.zero_xor]

theorem foldr_xor_filter_eq_xorOver (ns : List ι) (p : ι → Bool) (f : ι → Word32) :
    ((ns.filter p).map f).foldr (· ^^^ ·) 0#32 = xorOver ns fun n => if p n then f n else 0#32 := by
  induction ns with
  | nil => rfl
  | cons n ns ih => cases hp : p n <;> simp [hp, ih]

theorem xorOver_append (ns ms : List ι) (f : ι → Word32) : xorOver (ns ++ ms) f = xorOver ns f ^^^ xorOver ms f := by
  induction ns with
  | nil => simp
  | cons n ns ih => simp [ih, BitVec.xor_assoc]

theorem xorOver_map {κ : Type} (ns : List κ) (g : κ → ι) (f : ι → Word32) :
    xorOver (ns.map g) f = xorOver ns fun n => f (g n) :=
  List.foldr_map

theorem xorOver_xor (ns : List ι) (f g : ι → Word32) :
    (xorOver ns fun n => f n ^^^ g n) = xorOver ns f ^^^ xorOver ns g := by
  induction ns with
  | nil => simp
  | cons n ns ih => simp only [xorOver_cons, ih]; ac_rfl

/-- A bit to which no word contributes is 0. -/
theorem getLsbD_xorOver_eq_false {ns : List ι} {f : ι → Word32} {j : Nat} (h : ∀ n ∈ ns, (f n).getLsbD j = false) :
    (xorOver ns f).getLsbD j = false := by
  induction ns with
  | nil => simp
  | cons n ns ih =>
    obtain ⟨hn, hns⟩ := List.forall_mem_cons.mp h
    simp [hn, ih hns]

theorem xorOver_eq_zero {ns : List ι} {f : ι → Word32} (h : ∀ n ∈ ns, f n = 0#32) : xorOver ns f = 0#32 :=
  BitVec.eq_of_getLsbD_eq fun j _ => by
    rw [getLsbD_xorOver_eq_false fun n hn => by rw [h n hn, BitVec.getLsbD_zero], BitVec.getLsbD_zero]

/-- A bit to which one index contributes at most is the bit of that index's word. -/
theorem getLsbD_xorOver_of_unique {ns : List ι} {f : ι → Word32} {j : Nat} {n : ι} (hnodup : ns.Nodup) (hn : n ∈ ns)
    (h : ∀ i, i ≠ n → (f i).getLsbD j = false) : (xorOver ns f).getLsbD j = (f n).getLsbD j := by
  induction ns with
  | nil => cases hn
  | cons i ns ih =>
    obtain ⟨hi, hns⟩ := List.nodup_cons.mp hnodup
    obtain rfl | hmem := List.mem_cons.mp hn
    · have hrest : (xorOver ns f).getLsbD j = false :=
        getLsbD_xorOver_eq_false fun k hk => h k fun hkn => hi (hkn ▸ hk)
      simp [hrest]
    · have hhead : (f i).getLsbD j = false := h i fun hin => hi (hin ▸ hmem)
      simp [hhead, ih hns hmem]

end XorOver

/-! ### The loop of the product -/

theorem gf2MultLoop_zero (m : Mat) (bound i : Nat) (result : Word32) : gf2MultLoop m bound 0#32 i result = result := by
  cases bound <;> simp [gf2MultLoop]

/-- The early exit changes nothing: the loop adds the words of the set bits among the first `bound` (41_matrix_ops.md
R130, R131). -/
theorem gf2MultLoop_eq_xorOver (m : Mat) (bound : Nat) (v : Word32) (i : Nat) (result : Word32) :
    gf2MultLoop m bound v i result =
      result ^^^ xorOver (List.range bound) fun k => if v.getLsbD k then matWord m (i + k) else 0#32 := by
  induction bound generalizing v i result with
  | zero => simp [gf2MultLoop]
  | succ bound ih =>
    by_cases hv : v = 0#32
    · subst hv
      simp [gf2MultLoop_zero, xorOver_eq_zero]
    · have hindex (k : Nat) : i + 1 + k = i + (k + 1) := by omega
      simp only [gf2MultLoop, if_neg hv, ih, List.range_succ_eq_map, xorOver_cons, xorOver_map, hindex,
        BitVec.getLsbD_ushiftRight, Nat.add_comm 1, Nat.succ_eq_add_one, Nat.add_zero]
      cases v.getLsbD 0 <;> simp [BitVec.xor_assoc]

/-- The word `n` of a matrix if bit `n` of the vector is set: what index `n` adds to the product. -/
def selectedWord (m : Mat) (v : Word32) (n : Fin 32) : Word32 := if v.getLsbD n.val then m[n] else 0#32

theorem selectedWord_of_set {v : Word32} {n : Fin 32} (h : v.getLsbD n.val = true) (m : Mat) :
    selectedWord m v n = m[n] := if_pos h

theorem selectedWord_of_clear {v : Word32} {n : Fin 32} (h : v.getLsbD n.val = false) (m : Mat) :
    selectedWord m v n = 0#32 := if_neg (Bool.eq_false_iff.mp h)

/-- From 32 iterations on the loop gives the XOR of the words whose bit is set. -/
theorem gf2MultLoop_of_le {bound : Nat} (hbound : 32 ≤ bound) (m : Mat) (v : Word32) :
    gf2MultLoop m bound v 0 0#32 = xorOver (List.finRange 32) (selectedWord m v) := by
  obtain ⟨extra, rfl⟩ := Nat.exists_eq_add_of_le hbound
  have htail : (xorOver (List.range extra) fun k => if v.getLsbD (32 + k) then matWord m (32 + k) else 0#32) = 0#32 :=
    xorOver_eq_zero fun k _ => by simp
  have hword (n : Fin 32) : (if v.getLsbD n.val then matWord m n.val else 0#32) = selectedWord m v n := by
    simp [selectedWord, matWord]
  simp only [gf2MultLoop_eq_xorOver, Nat.zero_add, BitVec.zero_xor, List.range_add, xorOver_append, xorOver_map, htail,
    BitVec.xor_zero, ← List.map_coe_finRange_eq_range (n := 32), hword]

theorem gf2Mult_eq_xorOver (m : Mat) (v : Word32) : gf2Mult m v = xorOver (List.finRange 32) (selectedWord m v) :=
  gf2MultLoop_of_le le_rfl m v

/-- Settles O28: each form is the XOR over the words whose bit is set. -/
theorem multEqualsBothXorForms : Obligations.MultEqualsBothXorForms := by
  refine fun m v => ⟨?_, ?_, fun bound hbound => ?_⟩
  · exact (gf2Mult_eq_xorOver m v).trans (foldr_xor_filter_eq_xorOver _ _ _).symm
  · exact (gf2Mult_eq_xorOver m v).trans (foldl_xor_zero _ _).symm
  · exact (gf2MultLoop_of_le hbound m v).trans (gf2Mult_eq_xorOver m v).symm

/-! ### Linearity -/

@[simp] theorem gf2Mult_zero (m : Mat) : gf2Mult m 0#32 = 0#32 := gf2MultLoop_zero m 32 0 0#32

theorem selectedWord_xor (m : Mat) (u v : Word32) (n : Fin 32) :
    selectedWord m (u ^^^ v) n = selectedWord m u n ^^^ selectedWord m v n := by
  simp only [selectedWord, BitVec.getLsbD_xor]
  cases u.getLsbD n.val <;> cases v.getLsbD n.val <;> simp

theorem gf2Mult_xor (m : Mat) (u v : Word32) : gf2Mult m (u ^^^ v) = gf2Mult m u ^^^ gf2Mult m v := by
  rw [gf2Mult_eq_xorOver, funext (selectedWord_xor m u v), xorOver_xor, ← gf2Mult_eq_xorOver, ← gf2Mult_eq_xorOver]

theorem gf2Mult_xorOver {ι : Type} (m : Mat) (ns : List ι) (f : ι → Word32) :
    gf2Mult m (xorOver ns f) = xorOver ns fun n => gf2Mult m (f n) := by
  induction ns with
  | nil => exact gf2Mult_zero m
  | cons n ns ih => rw [xorOver_cons, gf2Mult_xor, ih, xorOver_cons]

theorem getLsbD_one_shiftLeft (n i : Fin 32) : (1#32 <<< n.val).getLsbD i.val = decide (i = n) := by
  revert n i
  decide

/-- A bit of the product to which word `n` alone can contribute. -/
theorem getLsbD_gf2Mult_of_unique {m : Mat} {v : Word32} {j : Nat} (n : Fin 32)
    (h : ∀ i, i ≠ n → (selectedWord m v i).getLsbD j = false) :
    (gf2Mult m v).getLsbD j = (selectedWord m v n).getLsbD j := by
  rw [gf2Mult_eq_xorOver]
  exact getLsbD_xorOver_of_unique (List.nodup_finRange 32) (List.mem_finRange n) h

/-- Word `n` of a matrix is the image of the basis vector `1 <<< n` (00_scope.md R11). -/
theorem gf2Mult_basis (m : Mat) (n : Fin 32) : gf2Mult m (1#32 <<< n.val) = m[n] := by
  have hother (i : Fin 32) (hi : i ≠ n) : selectedWord m (1#32 <<< n.val) i = 0#32 :=
    selectedWord_of_clear (by rw [getLsbD_one_shiftLeft, decide_eq_false hi]) m
  refine BitVec.eq_of_getLsbD_eq fun j _ => ?_
  rw [getLsbD_gf2Mult_of_unique n fun i hi => by rw [hother i hi, BitVec.getLsbD_zero],
    selectedWord_of_set (by rw [getLsbD_one_shiftLeft, decide_eq_true rfl])]

theorem getElem_idMat (n : Fin 32) : idMat[n] = 1#32 <<< n.val := by simp [idMat]

@[simp] theorem gf2Mult_idMat (v : Word32) : gf2Mult idMat v = v := by
  refine BitVec.eq_of_getLsbD_eq fun j hj => ?_
  have hbit (n : Fin 32) : (selectedWord idMat v n).getLsbD j = (v.getLsbD n.val && decide (⟨j, hj⟩ = n)) := by
    rw [← getLsbD_one_shiftLeft, ← getElem_idMat, selectedWord]
    cases v.getLsbD n.val <;> simp
  rw [getLsbD_gf2Mult_of_unique ⟨j, hj⟩ fun i hi => by rw [hbit, decide_eq_false hi.symm, Bool.and_false], hbit,
    decide_eq_true rfl, Bool.and_true]

/-- Settles O29, from the product as an XOR over the words whose bit is set. -/
theorem multIsLinear : Obligations.MultIsLinear :=
  ⟨gf2Mult_zero, gf2MultLoop_zero, gf2Mult_xor, gf2Mult_basis, gf2Mult_idMat⟩

/-! ### Composition and powers -/

/-- A matrix is determined by its action on vectors. -/
theorem mat_ext_gf2Mult {a b : Mat} (h : ∀ v, gf2Mult a v = gf2Mult b v) : a = b := by
  refine Vector.ext fun n hn => ?_
  have hword := h (1#32 <<< n)
  rwa [gf2Mult_basis a ⟨n, hn⟩, gf2Mult_basis b ⟨n, hn⟩] at hword

/-- The matrix whose words are the images under `a` of the words of `b` acts as `b`, then `a`. -/
theorem gf2Mult_ofFn_gf2Mult (a b : Mat) (v : Word32) :
    gf2Mult (Vector.ofFn fun n => gf2Mult a b[n]) v = gf2Mult a (gf2Mult b v) := by
  have hword (n : Fin 32) :
      selectedWord (Vector.ofFn fun n => gf2Mult a b[n]) v n = gf2Mult a (selectedWord b v n) := by
    simp only [selectedWord, Fin.getElem_fin, Vector.getElem_ofFn]
    cases v.getLsbD n.val <;> simp
  rw [gf2Mult_eq_xorOver, gf2Mult_eq_xorOver b, gf2Mult_xorOver, funext hword]

theorem getElem_gf2Square (m : Mat) (n : Fin 32) : (gf2Square m)[n] = gf2Mult m m[n] := by simp [gf2Square]

theorem gf2Mult_gf2Square (m : Mat) (v : Word32) : gf2Mult (gf2Square m) v = gf2Mult m (gf2Mult m v) :=
  gf2Mult_ofFn_gf2Mult m m v

theorem gf2Mult_matPow (m : Mat) (j : Nat) (v : Word32) : gf2Mult (matPow m j) v = (gf2Mult m)^[j] v := by
  induction j with
  | zero => exact gf2Mult_idMat v
  | succ j ih => rw [matPow, gf2Mult_ofFn_gf2Mult, ih, Function.iterate_succ_apply']

theorem gf2Mult_squareTimes (m : Mat) (j : Nat) (v : Word32) :
    gf2Mult (squareTimes m j) v = (gf2Mult m)^[2 ^ j] v := by
  induction j generalizing v with
  | zero => rfl
  | succ j ih => rw [squareTimes, gf2Mult_gf2Square, ih, ih, ← Function.iterate_add_apply, pow_succ, mul_two]

theorem squareTimes_eq_matPow (m : Mat) (j : Nat) : squareTimes m j = matPow m (2 ^ j) :=
  mat_ext_gf2Mult fun v => by rw [gf2Mult_squareTimes, gf2Mult_matPow]

/-- Settles O30: the square acts as two products, so `j` squares and the power `2 ^ j` act alike. -/
theorem squareIsSelfComposition : Obligations.SquareIsSelfComposition :=
  ⟨getElem_gf2Square, gf2Mult_gf2Square, squareTimes_eq_matPow⟩

/-! ### Corner cases -/

theorem gf2Mult_allOnes (m : Mat) : gf2Mult m 0xFFFFFFFF#32 = m.toList.foldl (· ^^^ ·) 0#32 := by
  have hwords : m.toList = (List.finRange 32).map fun n => m[n] :=
    List.ext_getElem (by simp) (by simp)
  have hword (n : Fin 32) : selectedWord m 0xFFFFFFFF#32 n = m[n] :=
    selectedWord_of_set (by revert n; decide) m
  rw [gf2Mult_eq_xorOver, funext hword, hwords, List.foldl_map, foldl_xor_zero]

/-- A matrix that maps each of its words to the word of `b` has the square `b`. -/
theorem gf2Square_eq_of_words {m b : Mat} (h : ∀ n : Fin 32, gf2Mult m m[n] = b[n]) : gf2Square m = b :=
  Vector.ext fun n hn => (getElem_gf2Square m ⟨n, hn⟩).trans (h ⟨n, hn⟩)

theorem getElem_boot_of_pos {n : Fin 32} (hn : 1 ≤ n.val) : boot[n] = 1#32 <<< (n.val - 1) := by
  simp only [boot, Fin.getElem_fin, Vector.getElem_ofFn, if_neg (Nat.ne_of_gt hn)]

theorem gf2Square_boot_of_pos {n : Fin 32} (hn : 1 ≤ n.val) :
    (gf2Square boot)[n] = boot[(⟨n.val - 1, by omega⟩ : Fin 32)] := by
  rw [getElem_gf2Square, getElem_boot_of_pos hn]
  exact gf2Mult_basis boot ⟨n.val - 1, by omega⟩

/-- Settles O31: the square's words by R133, those of `BOOT` past word 0 being basis vectors. -/
theorem matrixCornerCases : Obligations.MatrixCornerCases := by
  refine ⟨gf2Mult_allOnes, by decide, ?_, ?_, ?_, by decide, gf2Square_boot_of_pos le_rfl, fun n hn => ?_⟩
  · exact gf2Square_eq_of_words fun n => gf2Mult_idMat _
  · exact gf2Square_eq_of_words fun n => by simp [zeroMat]
  · refine gf2Square_eq_of_words fun n => ?_
    simp only [zeroMat, Fin.getElem_fin, Vector.getElem_replicate, gf2Mult_allOnes]
    decide
  · rw [gf2Square_boot_of_pos (by omega), getElem_boot_of_pos (Nat.le_sub_of_add_le hn), Nat.sub_sub]

/-! ### The engine steps and the commands -/

theorem engineStep_of_mExec {s : State} (hp : s.engine.phase = .mExec) :
    engineStep s = completeResult (gf2Mult s.engine.mat s.engine.vec) s := by
  simp only [engineStep, hp, engineMExec]

theorem engineStep_of_sExec {s : State} (hp : s.engine.phase = .sExec) :
    engineStep s = completeMatOut (gf2Square s.engine.mat) s := by
  simp only [engineStep, hp, engineSExec]

/-- Settles O24: each step is one completion. -/
theorem matrixEngineSteps : Obligations.MatrixEngineSteps :=
  ⟨fun _ hp => engineStep_of_mExec hp, fun _ hp => engineStep_of_sExec hp⟩

/-- Settles O18: the issue, then the engine step `M_EXEC` on what was latched. -/
theorem multWritesTheProduct : Obligations.MultWritesTheProduct :=
  fun s hb hw => ⟨issue .mult s, exec_of_written hb hw, engineStep_of_mExec rfl⟩

/-- Settles O19: the issue, then the engine step `S_EXEC` on what was latched. -/
theorem squareWritesTheSquare : Obligations.SquareWritesTheSquare :=
  fun s hb hw => ⟨issue .square s, gf2Square s.operands.matIn, exec_of_written hb hw, engineStep_of_sExec rfl,
    getElem_gf2Square s.operands.matIn⟩

end Sys2Proof.Machine

/-! ## Proofs: the combiner (42_combiner.md)

The powers of a matrix and the closed form of the combine loop, from which the algebra of `combine` follows; then the
engine steps of COMBINE, what the engine holds in each phase and before each loop iteration, and the command itself. -/

namespace Sys2Proof.Machine

open Sys2Proof.Safety

/-! ### Powers of a matrix -/

theorem gf2Mult_matPow_add (m : Mat) (i j : Nat) (v : Word32) :
    gf2Mult (matPow m (i + j)) v = gf2Mult (matPow m i) (gf2Mult (matPow m j) v) := by
  simp only [gf2Mult_matPow, Function.iterate_add_apply]

theorem matPow_matPow (m : Mat) (i j : Nat) : matPow (matPow m i) j = matPow m (i * j) :=
  mat_ext_gf2Mult fun v => by
    rw [gf2Mult_matPow, funext (gf2Mult_matPow m i), gf2Mult_matPow, Function.iterate_mul]

theorem gf2Square_eq_matPow (m : Mat) : gf2Square m = matPow m 2 := squareTimes_eq_matPow m 1

theorem gf2Square_matPow (m : Mat) (j : Nat) : gf2Square (matPow m j) = matPow m (2 * j) := by
  rw [gf2Square_eq_matPow, matPow_matPow, Nat.mul_comm]

/-- Applying a matrix if a bit is set is applying the power that the bit gives. -/
theorem ite_gf2Mult_eq_matPow (b : Bool) (m : Mat) (v : Word32) :
    (if b then gf2Mult m v else v) = gf2Mult (matPow m b.toNat) v := by
  cases b <;> simp [gf2Mult_matPow]

/-! ### The bits of a length -/

/-- The low `k + 1` bits of a length are its low `k` bits and bit `k`. -/
theorem toNat_mod_two_pow_succ (len : Word64) (k : Nat) :
    len.toNat % 2 ^ (k + 1) = len.toNat % 2 ^ k + 2 ^ k * ((len >>> k).getLsbD 0).toNat := by
  have hbit : ((len >>> k).getLsbD 0).toNat = len.toNat / 2 ^ k % 2 := by
    rw [BitVec.getLsbD_ushiftRight, Nat.add_zero, ← BitVec.testBit_toNat, Nat.toNat_testBit]
  rw [pow_succ, Nat.mod_mul, hbit]

/-- A length is twice its upper bits and bit 0. -/
theorem toNat_eq_two_mul_half_add_bit (len : Word64) :
    len.toNat = 2 * (len >>> 1).toNat + (len.getLsbD 0).toNat := by
  rw [← BitVec.testBit_toNat, Nat.toNat_testBit, BitVec.toNat_ushiftRight]
  omega

/-- Shifting right leaves a length other than 0 exactly for fewer places than it has bits (42_combiner.md R165). -/
theorem shiftRight_ne_zero_iff {len : Word64} (hlen : len ≠ 0#64) {k : Nat} :
    len >>> k ≠ 0#64 ↔ k < bitLength len := by
  have hnat : len.toNat ≠ 0 := fun h => hlen (BitVec.eq_of_toNat_eq h)
  have hshift : len >>> k = 0#64 ↔ len.toNat < 2 ^ k := by
    rw [← BitVec.toNat_inj, BitVec.toNat_ushiftRight, Nat.shiftRight_eq_div_pow]
    simp
  rw [bitLength, if_neg hlen, Nat.lt_succ_iff, Nat.le_log2 hnat, Ne, hshift, not_lt]

/-- A length is below 2 to the number of its bits. -/
theorem toNat_lt_two_pow_bitLength {len : Word64} (hlen : len ≠ 0#64) : len.toNat < 2 ^ bitLength len := by
  rw [bitLength, if_neg hlen]
  exact Nat.lt_log2_self

/-! ### The bootstrap matrix -/

/-- Word `n + 1` of `BOOT`, selected by bit `n + 1` of a vector, is word `n` of the identity, selected by bit `n` of the
vector shifted right by one place (42_combiner.md R160). -/
theorem selectedWord_boot_succ (v : Word32) (n : Fin 31) :
    selectedWord boot v n.succ = selectedWord idMat (v >>> 1) n.castSucc := by
  have hword : boot[n.succ] = idMat[n.castSucc] := by
    rw [getElem_boot_of_pos (by simp), getElem_idMat]
    simp
  simp only [selectedWord, hword, BitVec.getLsbD_ushiftRight, Fin.val_succ, Fin.val_castSucc, Nat.add_comm]

/-- The shifted vector has no bit 31, so it is the XOR of the words that `BOOT` selects past word 0. -/
theorem xorOver_selectedWord_boot_succ (v : Word32) :
    (xorOver (List.finRange 31) fun n => selectedWord boot v n.succ) = v >>> 1 := by
  have hlast : selectedWord idMat (v >>> 1) (Fin.last 31) = 0#32 := selectedWord_of_clear (by simp) idMat
  calc (xorOver (List.finRange 31) fun n => selectedWord boot v n.succ)
      = xorOver (List.finRange 32) (selectedWord idMat (v >>> 1)) := by
        rw [List.finRange_succ_last (n := 31), xorOver_append, xorOver_map, xorOver_cons, hlast]
        simp [selectedWord_boot_succ]
    _ = v >>> 1 := by rw [← gf2Mult_eq_xorOver, gf2Mult_idMat]

/-- Settles O32: word 0 of `BOOT` is the polynomial, and the words past it shift the vector. -/
theorem bootAdvancesOneZeroBit : Obligations.BootAdvancesOneZeroBit := by
  have hword : boot[(0 : Fin 32)] = 0xEDB88320#32 := rfl
  refine ⟨hword, fun n => getElem_boot_of_pos, fun v => ?_⟩
  rw [gf2Mult_eq_xorOver, List.finRange_succ, xorOver_cons, xorOver_map, xorOver_selectedWord_boot_succ,
    BitVec.xor_comm]
  rfl

/-! ### The combine loop -/

/-- Settles O35: the iterations a length has left are at most 64, and every bound that allows for them is enough. -/
theorem combineLoopEndsWithin64 : Obligations.CombineLoopEndsWithin64 := by
  intro bound even odd crc len sel hbound
  have hleft := iterationsLeft_le len
  rw [combineLoop_eq_of_le (hleft.trans hbound), combineLoop_eq_of_le hleft]

/-- The power that a length gives, split at bit 0 as a loop iteration does (42_combiner.md R162). -/
theorem gf2Mult_matPow_toNat (acc : Mat) (len : Word64) (crc : Word32) :
    gf2Mult (matPow acc len.toNat) crc =
      gf2Mult (matPow (gf2Square acc) (len >>> 1).toNat) (if len.getLsbD 0 then gf2Mult acc crc else crc) := by
  rw [ite_gf2Mult_eq_matPow, gf2Square_eq_matPow, matPow_matPow, ← gf2Mult_matPow_add,
    ← toNat_eq_two_mul_half_add_bit]

/-- The loop of R162 applies the square of the accumulator it reads first as many times as the length says. -/
theorem combineLoop_eq_matPow {bound : Nat} {even odd : Mat} {crc : Word32} {len : Word64} {sel : Sel}
    (hlen : len.toNat < 2 ^ bound) :
    combineLoop bound even odd crc len sel =
      gf2Mult (matPow (gf2Square (if sel = .even then odd else even)) len.toNat) crc := by
  induction bound generalizing even odd crc len sel with
  | zero =>
    have hzero : len.toNat = 0 := by omega
    simp [combineLoop, hzero, matPow]
  | succ bound ih =>
    rw [gf2Mult_matPow_toNat]
    by_cases hlast : len >>> 1 = 0#64
    · cases sel <;> simp [combineLoop, hlast, matPow]
    · have hhalf : (len >>> 1).toNat < 2 ^ bound := by
        have hsplit := toNat_eq_two_mul_half_add_bit len
        rw [pow_succ] at hlen
        omega
      simp only [combineLoop, hlast, if_false, ih hhalf]
      cases sel <;> simp [otherSel]

/-! ### The algebra of combine -/

/-- Settles O33: with length 0 `combine` returns before the loop. -/
theorem combineWithEmptyRightBuffer : Obligations.CombineWithEmptyRightBuffer := by
  intro crcA crcB
  simp [combine]

theorem combine_eq_matPow (crcA crcB : Word32) {len : Word64} (hlen : len ≠ 0#64) :
    combine crcA crcB len = gf2Mult (matPow boot (8 * len.toNat)) crcA ^^^ crcB := by
  have hcubed : gf2Square (gf2Square (gf2Square boot)) = matPow boot 8 := squareTimes_eq_matPow boot 3
  simp only [combine, if_neg hlen, combineLoop_eq_matPow len.isLt, if_true, hcubed, matPow_matPow]

/-- Settles O34: the loop's closed form, repeated squares as powers, and a product with the vector 0. -/
theorem combineClosedForm : Obligations.CombineClosedForm := by
  refine ⟨fun crcA crcB len => combine_eq_matPow crcA crcB, fun k => ?_, fun crcB len hlen => ?_⟩
  · rw [squareTimes_eq_matPow, pow_add, Nat.mul_comm (2 ^ k)]
    rfl
  · rw [combine_eq_matPow _ _ hlen, gf2Mult_zero, BitVec.zero_xor]

/-- Settles O36: the powers for the two lengths add up, and the product is linear. -/
theorem combineIsChunkAssociative : Obligations.CombineIsChunkAssociative := by
  intro a b c lb lc hlb hlc hsum
  have htoNat : (lb + lc).toNat = lc.toNat + lb.toNat := by
    rw [BitVec.toNat_add, Nat.mod_eq_of_lt hsum, Nat.add_comm]
  have hne : lb + lc ≠ 0#64 := by
    intro h
    have hlb' : lb.toNat ≠ 0 := fun h0 => hlb (BitVec.eq_of_toNat_eq h0)
    simp only [h, BitVec.toNat_ofNat] at htoNat
    omega
  rw [combine_eq_matPow _ _ hlc, combine_eq_matPow _ _ hlb, combine_eq_matPow _ _ hlc, combine_eq_matPow _ _ hne,
    htoNat, Nat.mul_add, gf2Mult_matPow_add, gf2Mult_xor, BitVec.xor_assoc]

/-! ### The engine steps of COMBINE -/

theorem engineStep_of_cCheck_zero {s : State} (hp : s.engine.phase = .cCheck) (hlen : s.engine.len = 0#64) :
    engineStep s = completeResult s.engine.crc s := by
  simp only [engineStep, hp, engineCCheck, if_pos hlen]

theorem engineStep_of_cCheck {s : State} (hp : s.engine.phase = .cCheck) (hlen : s.engine.len ≠ 0#64) :
    engineStep s = setPhase .cBoot s := by
  simp only [engineStep, hp, engineCCheck, if_neg hlen]

theorem engineStep_of_cBoot {s : State} (hp : s.engine.phase = .cBoot) :
    engineStep s = setEngine { s.engine with odd := boot, phase := .cSq1 } s := by
  simp only [engineStep, hp, engineCBoot]

theorem engineStep_of_cSq1 {s : State} (hp : s.engine.phase = .cSq1) :
    engineStep s = setEngine { s.engine with even := gf2Square s.engine.odd, phase := .cSq2 } s := by
  simp only [engineStep, hp, engineCSq1]

theorem engineStep_of_cSq2 {s : State} (hp : s.engine.phase = .cSq2) :
    engineStep s =
      setEngine { s.engine with odd := gf2Square s.engine.even, sel := .even, phase := .cIter } s := by
  simp only [engineStep, hp, engineCSq2]

theorem engineStep_of_cIter {s : State} (hp : s.engine.phase = .cIter) :
    engineStep s = setEngine (iterate s.engine) s := by
  simp only [engineStep, hp, engineCIter]

theorem engineStep_of_cFinal {s : State} (hp : s.engine.phase = .cFinal) :
    engineStep s = completeResult (s.engine.crc ^^^ s.engine.crcB) s := by
  simp only [engineStep, hp, engineCFinal]

/-- Settles O25: the steps one by one, with the powers as squares of powers. -/
theorem combineSetupSteps : Obligations.CombineSetupSteps := by
  refine ⟨fun s => engineStep_of_cCheck_zero, fun s => engineStep_of_cCheck, fun s => engineStep_of_cBoot,
    fun s => engineStep_of_cSq1, fun s => engineStep_of_cSq2, fun s hp hodd => ?_, fun s hp heven => ?_⟩
  · rw [engineStep_of_cSq1 hp, setEngine_engine, hodd, gf2Square_eq_matPow]
  · rw [engineStep_of_cSq2 hp, setEngine_engine, heven, gf2Square_matPow]

theorem iterate_of_even {e : Engine} (hp : e.phase = .cIter) (hsel : e.sel = .even) :
    iterate e =
      { e with
        even := gf2Square e.odd
        crc := if e.len.getLsbD 0 then gf2Mult (gf2Square e.odd) e.crc else e.crc
        len := e.len >>> 1
        phase := if e.len >>> 1 = 0#64 then .cFinal else .cIter
        sel := if e.len >>> 1 = 0#64 then .even else .odd } := by
  by_cases hlast : e.len >>> 1 = 0#64 <;>
    simp [iterate, otherAccumulator, writeAccumulator, otherSel, hp, hsel, hlast]

theorem iterate_of_odd {e : Engine} (hp : e.phase = .cIter) (hsel : e.sel = .odd) :
    iterate e =
      { e with
        odd := gf2Square e.even
        crc := if e.len.getLsbD 0 then gf2Mult (gf2Square e.even) e.crc else e.crc
        len := e.len >>> 1
        phase := if e.len >>> 1 = 0#64 then .cFinal else .cIter
        sel := if e.len >>> 1 = 0#64 then .odd else .even } := by
  by_cases hlast : e.len >>> 1 = 0#64 <;>
    simp [iterate, otherAccumulator, writeAccumulator, otherSel, hp, hsel, hlast]

/-- Settles O26: the iteration for each value of `E_SEL`. -/
theorem combineLoopStep : Obligations.CombineLoopStep := by
  refine ⟨fun s hp hsel => ?_, fun s hp hsel => ?_⟩
  · rw [engineStep_of_cIter hp, iterate_of_even hp hsel, setEngine]
  · rw [engineStep_of_cIter hp, iterate_of_odd hp hsel, setEngine]

/-- Settles O27: the step is one completion. -/
theorem combineFinalStep : Obligations.CombineFinalStep := fun _ hp => engineStep_of_cFinal hp

/-! ### What the accumulators hold -/

/-- The invariant speaks of the engine alone. -/
theorem accumulatorInv_of_engine_eq {s t : State} (hengine : t.engine = s.engine) (h : AccumulatorInv s) :
    AccumulatorInv t := by
  simpa only [AccumulatorInv, hengine] using h

/-- The invariant asks nothing of an engine that runs no COMBINE, has not checked the length, or has left the loop. -/
theorem accumulatorInv_of_phase {s : State}
    (hp : s.engine.phase ∈ [Phase.idle, .mExec, .sExec, .cCheck, .cFinal]) : AccumulatorInv s := by
  unfold AccumulatorInv
  cases hphase : s.engine.phase <;> simp_all

theorem HostEffect.accumulatorInv {s t : State} (heff : HostEffect s t) (h : AccumulatorInv s) :
    AccumulatorInv t := by
  cases heff with
  | issued i hb hw => exact accumulatorInv_of_phase (by cases i <;> simp [startPhase])
  | wrote r v hr => exact accumulatorInv_of_engine_eq (by simp) h
  | faulted | illegal | nothing | readInto => exact accumulatorInv_of_engine_eq rfl h

theorem hostTurn_accumulatorInv {s t : State} (h : AccumulatorInv s) (hstep : hostTurn s = .next t) :
    AccumulatorInv t := by
  obtain ⟨_, rfl⟩ | ⟨_, heff⟩ := hostTurn_cases hstep
  · exact h
  · exact heff.accumulatorInv h

theorem otherSel_selAt (k : Nat) : otherSel (selAt k) = selAt (k + 1) := by
  obtain hk | hk := Nat.mod_two_eq_zero_or_one k <;> simp [selAt, otherSel, hk, Nat.add_mod]

/-- The square of what iteration `k` reads is what iteration `k + 1` reads (42_combiner.md R176). -/
theorem gf2Square_matPow_boot (k : Nat) : gf2Square (matPow boot (2 ^ (k + 2))) = matPow boot (2 ^ (k + 3)) := by
  rw [gf2Square_matPow, ← pow_succ']

/-- A `C_ITER` step leaves the loop, or takes the invariant from iteration `k` to iteration `k + 1`. -/
theorem accumulatorInv_iterate {s : State} (hp : s.engine.phase = .cIter) (h : AccumulatorInv s) :
    AccumulatorInv (setEngine (iterate s.engine) s) := by
  by_cases hlast : s.engine.len >>> 1 = 0#64
  · exact accumulatorInv_of_phase (by simp [iterate_phase, hp, hlast])
  simp only [AccumulatorInv, hp] at h
  obtain ⟨_, k, hk, hbits, hsel, hacc⟩ := h
  have hhalf : (s.engine.len >>> 1).toNat = s.engine.len.toNat / 2 := by
    rw [BitVec.toNat_ushiftRight, Nat.shiftRight_eq_div_pow, pow_one]
  have hpos : (s.engine.len >>> 1).toNat ≠ 0 := fun h0 => hlast (BitVec.eq_of_toNat_eq h0)
  have hpow : 2 ^ (64 - k) = 2 * 2 ^ (64 - (k + 1)) := by
    rw [← pow_succ']
    congr 1
    omega
  have hk' : k + 1 < 64 := by
    by_contra hk'
    obtain rfl : k = 63 := by omega
    omega
  simp only [AccumulatorInv, setEngine_engine, iterate_phase _ hp, if_neg hlast, iterate_len]
  refine ⟨hlast, k + 1, hk', by omega, ?_, ?_⟩
  · rw [iterate_sel hlast, hsel, otherSel_selAt]
  · rw [otherAccumulator_iterate hlast, hacc, gf2Square_matPow_boot]

theorem accumulatorInv_engineStep {s : State} (h : AccumulatorInv s) : AccumulatorInv (engineStep s) := by
  cases hp : s.engine.phase with
  | idle => rwa [engineStep_eq_self.mpr hp]
  | mExec => exact accumulatorInv_of_phase (by simp [engineStep_of_mExec hp])
  | sExec => exact accumulatorInv_of_phase (by simp [engineStep_of_sExec hp])
  | cCheck =>
    by_cases hlen : s.engine.len = 0#64
    · exact accumulatorInv_of_phase (by simp [engineStep_of_cCheck_zero hp hlen])
    · rw [engineStep_of_cCheck hp hlen]
      exact hlen
  | cBoot =>
    simp only [AccumulatorInv, hp] at h
    rw [engineStep_of_cBoot hp]
    exact ⟨h, rfl⟩
  | cSq1 =>
    simp only [AccumulatorInv, hp] at h
    obtain ⟨hlen, hodd⟩ := h
    rw [engineStep_of_cSq1 hp, hodd, gf2Square_eq_matPow]
    exact ⟨hlen, rfl⟩
  | cSq2 =>
    simp only [AccumulatorInv, hp] at h
    obtain ⟨hlen, heven⟩ := h
    rw [engineStep_of_cSq2 hp, heven, gf2Square_matPow]
    exact ⟨hlen, 0, by omega, s.engine.len.isLt, rfl, rfl⟩
  | cIter =>
    rw [engineStep_of_cIter hp]
    exact accumulatorInv_iterate hp h
  | cFinal => exact accumulatorInv_of_phase (by simp [engineStep_of_cFinal hp])

/-- Settles O44: the host's effects, the engine's steps and a reset each keep the invariant. -/
theorem accumulatorInvKeptByEveryStep : Obligations.AccumulatorInvKeptByEveryStep := by
  intro s t h hstep
  have hdrop : AccumulatorInv (dropTurn s) := accumulatorInv_of_engine_eq rfl h
  obtain ⟨_, hhost⟩ | ⟨_, rfl⟩ | ⟨_, rfl⟩ := step_cases hstep
  · exact hostTurn_accumulatorInv hdrop hhost
  · exact accumulatorInv_engineStep hdrop
  · exact accumulatorInv_of_phase (by simp [Engine.reset])

/-! ### The iterations of the loop -/

theorem engineSteps_succ (k : Nat) (s : State) : engineSteps (k + 1) s = engineStep (engineSteps k s) := by
  induction k generalizing s with
  | zero => rfl
  | succ k ih => exact ih (engineStep s)

/-- What an engine that started in `C_CHECK` with registers `start` holds before loop iteration `k` (42_combiner.md
R176). -/
structure BeforeIteration (start : Engine) (k : Nat) (e : Engine) : Prop where
  phase : e.phase = .cIter
  len : e.len = start.len >>> k
  crc : e.crc = gf2Mult (matPow boot (8 * (start.len.toNat % 2 ^ k))) start.crc
  crcB : e.crcB = start.crcB
  sel : e.sel = selAt k
  acc : otherAccumulator e = matPow boot (2 ^ (k + 2))

theorem engineSteps_setup {s : State} (hp : s.engine.phase = .cCheck) (hlen : s.engine.len ≠ 0#64) :
    engineSteps 4 s =
      setEngine
        { s.engine with
          phase := .cIter, sel := .even, even := gf2Square boot, odd := gf2Square (gf2Square boot) } s :=
  calc engineSteps 4 s
      = engineSteps 3 (setPhase .cBoot s) := congrArg (engineSteps 3) (engineStep_of_cCheck hp hlen)
    _ = _ := rfl

theorem beforeIteration_zero {s : State} (hp : s.engine.phase = .cCheck) (hlen : s.engine.len ≠ 0#64) :
    BeforeIteration s.engine 0 (engineSteps 4 s).engine := by
  rw [engineSteps_setup hp hlen, setEngine_engine]
  constructor
  case crc => simp [Nat.mod_one, matPow]
  case acc => exact squareTimes_eq_matPow boot 2
  case len => simp
  all_goals rfl

section Iteration

variable {start e : Engine} {k : Nat} (h : BeforeIteration start k e)
include h

/-- The accumulator that iteration `k` writes (42_combiner.md R176). -/
theorem BeforeIteration.written_iterate :
    (if k % 2 = 0 then (iterate e).even else (iterate e).odd) = matPow boot (2 ^ (k + 3)) := by
  have hsel := h.sel
  rw [← gf2Square_matPow_boot, ← h.acc]
  by_cases hk : k % 2 = 0 <;> simp only [selAt, hk, if_true, if_false] at hsel ⊢
  · rw [iterate_of_even h.phase hsel, otherAccumulator, hsel]
  · rw [iterate_of_odd h.phase hsel, otherAccumulator, hsel]

/-- The checksum after iteration `k`: bit `k` of the length has been used. -/
theorem BeforeIteration.crc_iterate :
    (iterate e).crc = gf2Mult (matPow boot (8 * (start.len.toNat % 2 ^ (k + 1)))) start.crc := by
  have hpower (b : Nat) : 2 ^ (k + 3) * b + 8 * (start.len.toNat % 2 ^ k) =
      8 * (start.len.toNat % 2 ^ k + 2 ^ k * b) := by ring
  rw [iterate_crc, h.acc, gf2Square_matPow_boot, ite_gf2Mult_eq_matPow, matPow_matPow, h.crc, h.len,
    ← gf2Mult_matPow_add, hpower, ← toNat_mod_two_pow_succ]

theorem BeforeIteration.succ (hnext : start.len >>> (k + 1) ≠ 0#64) :
    BeforeIteration start (k + 1) (iterate e) := by
  have hshift : e.len >>> 1 = start.len >>> (k + 1) := by rw [h.len, BitVec.shiftRight_add]
  have hlast : e.len >>> 1 ≠ 0#64 := by rwa [hshift]
  constructor
  case phase => rw [iterate_phase e h.phase, if_neg hlast]
  case len => rw [iterate_len, hshift]
  case crc => exact h.crc_iterate
  case crcB => rw [iterate_crcB, h.crcB]
  case sel => rw [iterate_sel hlast, h.sel, otherSel_selAt]
  case acc => rw [otherAccumulator_iterate hlast, h.acc, gf2Square_matPow_boot]

/-- The iteration at the highest bit of the length leaves the loop with the whole length used. -/
theorem BeforeIteration.last (hlen : start.len ≠ 0#64) (hk : k + 1 = bitLength start.len) :
    (iterate e).phase = .cFinal ∧
      (iterate e).crc = gf2Mult (matPow boot (8 * start.len.toNat)) start.crc ∧ (iterate e).crcB = start.crcB := by
  have hlast : e.len >>> 1 = 0#64 := by
    rw [h.len, ← BitVec.shiftRight_add]
    by_contra hne
    exact absurd ((shiftRight_ne_zero_iff hlen).mp hne) (by omega)
  refine ⟨by rw [iterate_phase e h.phase, if_pos hlast], ?_, by rw [iterate_crcB, h.crcB]⟩
  rw [h.crc_iterate, hk, Nat.mod_eq_of_lt (toNat_lt_two_pow_bitLength hlen)]

end Iteration

section Loop

variable {s : State} (hp : s.engine.phase = .cCheck) (hlen : s.engine.len ≠ 0#64)
include hp hlen

theorem beforeIteration_engineSteps {k : Nat} (hk : k < bitLength s.engine.len) :
    BeforeIteration s.engine k (engineSteps (k + 4) s).engine := by
  induction k with
  | zero => exact beforeIteration_zero hp hlen
  | succ k ih =>
    have hbefore := ih (by omega)
    rw [Nat.succ_add, engineSteps_succ, engineStep_of_cIter hbefore.phase]
    exact hbefore.succ ((shiftRight_ne_zero_iff hlen).mpr hk)

theorem engineSteps_to_cFinal :
    (engineSteps (bitLength s.engine.len + 4) s).engine.phase = .cFinal ∧
      (engineSteps (bitLength s.engine.len + 4) s).engine.crc =
        gf2Mult (matPow boot (8 * s.engine.len.toNat)) s.engine.crc ∧
      (engineSteps (bitLength s.engine.len + 4) s).engine.crcB = s.engine.crcB := by
  obtain ⟨k, hk⟩ : ∃ k, bitLength s.engine.len = k + 1 := ⟨s.engine.len.toNat.log2, if_neg hlen⟩
  have hbefore := beforeIteration_engineSteps hp hlen (k := k) (by omega)
  rw [hk, Nat.succ_add, engineSteps_succ, engineStep_of_cIter hbefore.phase]
  exact hbefore.last hlen hk.symm

/-- The step after the loop completes with `combine` of what the engine started with. -/
theorem engineSteps_to_result :
    engineSteps (bitLength s.engine.len + 5) s =
      completeResult (combine s.engine.crc s.engine.crcB s.engine.len)
        (engineSteps (bitLength s.engine.len + 4) s) := by
  obtain ⟨hphase, hcrc, hcrcB⟩ := engineSteps_to_cFinal hp hlen
  rw [engineSteps_succ, engineStep_of_cFinal hphase, hcrc, hcrcB, ← combine_eq_matPow _ _ hlen]

end Loop

/-- Settles O37: what the engine holds before iteration `k`, by induction on `k`, and what its last iteration leaves. -/
theorem combineLoopInvariant : Obligations.CombineLoopInvariant := by
  refine fun s hp => ⟨fun hlen => ⟨fun k hk => ?_, ?_⟩, fun hlen => ⟨?_, ?_⟩⟩
  · have hbefore := beforeIteration_engineSteps hp hlen hk
    have hleft : (engineSteps (k + 4) s).engine.len ≠ 0#64 := by
      rw [hbefore.len]
      exact (shiftRight_ne_zero_iff hlen).mpr hk
    rw [engineSteps_succ (k + 4), engineStep_of_cIter hbefore.phase]
    exact ⟨hbefore.phase, hbefore.len, hleft, hbefore.crc, hbefore.sel,
      hbefore.acc.trans (squareTimes_eq_matPow boot (k + 2)).symm, hbefore.acc, hbefore.written_iterate⟩
  · obtain ⟨hphase, hcrc, _⟩ := engineSteps_to_cFinal hp hlen
    exact ⟨hphase, hcrc, by rw [engineSteps_to_result hp hlen, completeResult_results]⟩
  · rw [engineStep_of_cCheck_zero hp hlen, completeResult_results]
  · rw [combineWithEmptyRightBuffer]

/-! ### The command -/

theorem EngineEffect.eq_setEngine {s t : State} (h : EngineEffect s t) (hbusy : t.engine.phase ≠ .idle) :
    t = setEngine t.engine s := by
  cases h with
  | none | internal => rfl
  | wroteResult | wroteMatOut => simp at hbusy

/-- Until the completion engine steps write engine registers only. -/
theorem engineSteps_eq_setEngine {k : Nat} {s : State} (hk : k < stepsLeft s.engine) :
    engineSteps k s = setEngine (engineSteps k s).engine s := by
  induction k generalizing s with
  | zero => rfl
  | succ k ih =>
    obtain ⟨left, hleft⟩ : ∃ left, stepsLeft s.engine = left + 1 := ⟨stepsLeft s.engine - 1, by omega⟩
    have hnext : k < stepsLeft (engineStep s).engine := by
      rw [stepsLeft_engineStep_of_succ hleft]
      omega
    have hbusy : (engineStep s).engine.phase ≠ .idle := fun hidle => by
      rw [stepsLeft_eq_zero.mpr hidle] at hnext
      omega
    have hstep := (engineStep_effect s).eq_setEngine hbusy
    calc engineSteps k (engineStep s)
        = setEngine (engineSteps k (engineStep s)).engine (engineStep s) := ih hnext
      _ = setEngine (engineSteps k (engineStep s)).engine (setEngine (engineStep s).engine s) :=
        congrArg (setEngine _) hstep
      _ = setEngine (engineSteps k (engineStep s)).engine s := rfl

/-- From `C_CHECK` the engine completes with `combine` of its registers, and until then writes its own registers only. -/
theorem engineSteps_of_cCheck {s : State} (hp : s.engine.phase = .cCheck) :
    ∃ e, engineSteps (stepsLeft s.engine) s =
      completeResult (combine s.engine.crc s.engine.crcB s.engine.len) (setEngine e s) := by
  by_cases hlen : s.engine.len = 0#64
  · have hleft : stepsLeft s.engine = 1 := by simp [stepsLeft, hp, hlen]
    refine ⟨s.engine, ?_⟩
    rw [hleft, hlen, combineWithEmptyRightBuffer]
    exact engineStep_of_cCheck_zero hp hlen
  · have hleft : stepsLeft s.engine = bitLength s.engine.len + 5 := by
      simp [stepsLeft, hp, hlen, bitLength, iterationsLeft]
    refine ⟨(engineSteps (bitLength s.engine.len + 4) s).engine, ?_⟩
    rw [hleft, engineSteps_to_result hp hlen, ← engineSteps_eq_setEngine (by omega)]

/-- Settles O20: the issue, then the engine's run on what was latched. -/
theorem combineWritesCombine : Obligations.CombineWritesCombine := by
  intro s hb hw
  obtain ⟨e, he⟩ := engineSteps_of_cCheck (s := issue .combine s) rfl
  rw [← commandSteps_eq_stepsLeft] at he
  refine ⟨issue .combine s, _, exec_of_written hb hw, rfl, ?_⟩
  rw [he]
  exact ⟨rfl, rfl⟩

end Sys2Proof.Machine

/-! ## Proofs: the fault record (60_exceptions.md)

A host transaction records at most one fault; the engine and a reset record none. -/

namespace Sys2Proof.Machine

open Sys2Proof.Safety

/-! ### What each agent's move does to the record -/

theorem HostEffect.faults_eq_or_append {s t : State} (h : HostEffect s t) :
    t.faults = s.faults ∨ ∃ f, t.faults = s.faults ++ [f] := by
  cases h with
  | faulted f => exact .inr ⟨f, raise_faults f s⟩
  | wrote r v hr => exact .inl (writeRegister_faults r v s)
  | illegal | issued | nothing | readInto => exact .inl rfl

theorem engineStep_faults (s : State) : (engineStep s).faults = s.faults := by
  obtain ⟨_, _, hfaults, _⟩ := (engineStep_effect s).frame
  exact hfaults

theorem hostTurn_faults {s t : State} (h : hostTurn s = .next t) :
    t.faults = s.faults ∨ ∃ f, t.faults = s.faults ++ [f] := by
  obtain ⟨_, rfl⟩ | ⟨_, heff⟩ := hostTurn_cases h
  · exact .inl rfl
  · exact heff.faults_eq_or_append

/-- A step keeps the fault record or appends one fault to it (60_exceptions.md R201). -/
theorem step_faults {s t : State} (h : step s = .next t) :
    t.faults = s.faults ∨ ∃ f, t.faults = s.faults ++ [f] := by
  obtain ⟨_, hhost⟩ | ⟨_, rfl⟩ | ⟨_, rfl⟩ := step_cases h
  · simpa only [dropTurn_faults] using hostTurn_faults hhost
  · exact .inl (engineStep_faults (dropTurn s))
  · exact .inl (resetBlock_faults (dropTurn s))

/-! ### The record is sticky -/

/-- Settles O48: of a step's three agents the host alone touches the record, and it only appends to it; a final state has
an empty record by definition. -/
theorem faultRecordIsSticky : Obligations.FaultRecordIsSticky := by
  refine ⟨fun s t h => ?_, fun s hfaults hfinal => ?_⟩
  · obtain hsame | ⟨f, happend⟩ := step_faults h
    · exact ⟨[], by simpa using hsame, Nat.zero_le 1⟩
    · exact ⟨[f], happend, le_rfl⟩
  · obtain ⟨_, _, hempty⟩ := hfinal
    exact hfaults hempty

end Sys2Proof.Machine

/-! ## Proofs: reset, and the engine's step counts (70_reset_and_hazards.md)

What every state after reset has, which the launch state and the reset event share; how many bits a length has, and the
phases of each command up to IDLE. -/

namespace Sys2Proof.Machine

open Sys2Proof.Safety

/-! ### After reset -/

/-- The status invariant rests on what R230 says alone: no status bit is set and the phase is IDLE. -/
theorem statusInv_of_afterReset {s : State} (h : AfterReset s) : StatusInv s := by
  simp [StatusInv, h.status, h.phase]

theorem accumulatorInv_of_afterReset {s : State} (h : AfterReset s) : AccumulatorInv s :=
  accumulatorInv_of_phase (by simp [h.phase])

theorem memRead_status_of_afterReset {s : State} (h : AfterReset s) : memRead 0x004 4 s = .value 0x00000000#32 :=
  calc memRead 0x004 4 s
      = .value (statusWord s.status) := memRead_regOffset .status s
    _ = .value 0x00000000#32 := by rw [h.status]; rfl

/-- The launch state is a state after reset: the reset event leaves it as it is. -/
theorem afterReset_reset : AfterReset State.reset := afterReset_resetBlock State.reset

theorem step_eq_resetBlock {s : State} (h : nextTurn s = .reset) : step s = .next (resetBlock (dropTurn s)) := by
  simp [step, takeTurn, h]

/-- Settles O46: two of the invariants hold in every state after reset, and no host variable is set at launch. -/
theorem invariantsHoldAtReset : Obligations.InvariantsHoldAtReset :=
  ⟨statusInv_of_afterReset afterReset_reset, accumulatorInv_of_afterReset afterReset_reset, List.Pairwise.nil⟩

/-- Settles O52: the step is `resetBlock`, which writes the block's own state and neither the record nor the host's. -/
theorem resetAbandonsTheCommand : Obligations.ResetAbandonsTheCommand := by
  intro s hturn
  have hafter := afterReset_resetBlock (dropTurn s)
  exact ⟨resetBlock (dropTurn s), step_eq_resetBlock hturn, hafter, rfl, memRead_status_of_afterReset hafter,
    rfl, rfl, rfl⟩

/-- Settles O53: the launch state is a state after reset, and its fault record is empty. -/
theorem launchStateIsClean : Obligations.LaunchStateIsClean :=
  ⟨⟨afterReset_reset, rfl⟩, memRead_status_of_afterReset afterReset_reset⟩

/-! ### The number of bits of a length -/

theorem bitLength_le (len : Word64) : bitLength len ≤ 64 := by
  unfold bitLength
  split
  · exact Nat.zero_le 64
  · exact iterationsLeft_le len

/-- A length of at least `2 ^ k` has bit `k` or a higher one (42_combiner.md R165). -/
theorem lt_bitLength_of_two_pow_le {len : Word64} {k : Nat} (h : 2 ^ k ≤ len.toNat) : k < bitLength len := by
  have hnat : len.toNat ≠ 0 := (lt_of_lt_of_le (Nat.two_pow_pos k) h).ne'
  have hlen : len ≠ 0#64 := fun hzero => hnat (congrArg BitVec.toNat hzero)
  rw [bitLength, if_neg hlen, Nat.lt_succ_iff, Nat.le_log2 hnat]
  exact h

theorem bitLength_pos {len : Word64} (hlen : len ≠ 0#64) : 0 < bitLength len :=
  lt_bitLength_of_two_pow_le (Nat.pos_of_ne_zero fun hzero => hlen (BitVec.eq_of_toNat_eq hzero))

/-! ### The phases of a command -/

theorem engineStep_phase_of_matrixOp {s : State} (hp : s.engine.phase = .mExec ∨ s.engine.phase = .sExec) :
    (engineStep s).engine.phase = .idle := by
  obtain hp | hp := hp
  · rw [engineStep_of_mExec hp, completeResult_engine]
  · rw [engineStep_of_sExec hp, completeMatOut_engine]

/-- With a length other than 0 the phases before the loop follow each other (42_combiner.md R170 to R172). -/
theorem engineSteps_setup_phases {s : State} (hp : s.engine.phase = .cCheck) (hlen : s.engine.len ≠ 0#64) :
    (engineSteps 1 s).engine.phase = .cBoot ∧ (engineSteps 2 s).engine.phase = .cSq1 ∧
      (engineSteps 3 s).engine.phase = .cSq2 := by
  simp only [engineSteps, engineStep_of_cCheck hp hlen]
  exact ⟨rfl, rfl, rfl⟩

/-- Settles O38: the phases before, in and after the loop, whose iterations are as many as the length has bits. -/
theorem engineStepCounts : Obligations.EngineStepCounts := by
  refine ⟨fun s => engineStep_phase_of_matrixOp, fun s hp hlen => ?_, fun s hp hlen => ?_, fun len => ?_⟩
  · rw [engineStep_of_cCheck_zero hp hlen, completeResult_engine]
  · obtain ⟨hboot, hsq1, hsq2⟩ := engineSteps_setup_phases hp hlen
    obtain ⟨hfinal, _, _⟩ := engineSteps_to_cFinal hp hlen
    exact ⟨hboot, hsq1, hsq2, fun k hk => (beforeIteration_engineSteps hp hlen hk).phase, hfinal,
      by rw [engineSteps_to_result hp hlen, completeResult_engine]⟩
  · exact ⟨bitLength_le len, bitLength_pos, fun htop =>
      le_antisymm (bitLength_le len) (lt_bitLength_of_two_pow_le (k := 63) htop)⟩

end Sys2Proof.Machine
